-- ==== Sys2Proof/Word.lean ====
section
/-! DEFINITION. The data of the ST2 envelope engine: bytes, 32-bit words and byte strings (00_scope.md R9, R10). -/

namespace Sys2Proof

/-- A byte, an integer 0..255 (R9). -/
abbrev Byte := BitVec 8

/-- A `u32` (R10): a register, a command word, a SHA-1 word. -/
abbrev Word := BitVec 32

/-- A byte string, index 0 first (R9); `ε` is `[]`, `a ‖ b` is `a ++ b`. -/
abbrev Bytes := List Byte

end Sys2Proof
end

