-- ==== Sys2Proof/Syntax.lean ====
section
/-! DEFINITION. The commands of the engine, one constructor for each legal command word of 30_encoding.md R123. -/

namespace Sys2Proof

/-- The engine's commands. A command word carries no address, length or data immediates (30_encoding.md R122): its
operands are registers, and its two one-bit flags `HEX` and `IVSRC` select among the four `SEAL` words and the two
`OPEN` words, each of which is a row of the opcode table. -/
inductive Instr where
  /-- `NOP`, word `0x00000000` (40_control.md R155) -/
  | nop
  /-- `KEY_COMMIT`, word `0x00000001` (40_control.md R153) -/
  | keyCommit
  /-- `KEY_CLEAR`, word `0x00000002` (40_control.md R154) -/
  | keyClear
  /-- `PAD`, word `0x00000010` (41_padding.md R171) -/
  | pad
  /-- `UNPAD`, word `0x00000011` (41_padding.md R173) -/
  | unpad
  /-- `AES_CBC_ENC`, word `0x00000020` (42_cipher.md R207) -/
  | aesCbcEnc
  /-- `AES_CBC_DEC`, word `0x00000021` (42_cipher.md R208) -/
  | aesCbcDec
  /-- `HMAC_GEN`, word `0x00000030` (43_mac.md R238) -/
  | hmacGen
  /-- `HMAC_VERIFY`, word `0x00000031` (43_mac.md R239) -/
  | hmacVerify
  /-- `HEX_ENC`, word `0x00000040` (44_envelope.md R263) -/
  | hexEnc
  /-- `HEX_DEC`, word `0x00000041` (44_envelope.md R264) -/
  | hexDec
  /-- `SEAL`: binary envelope, IV from the entropy source, word `0x00000050` (44_envelope.md R265) -/
  | sealBin
  /-- `SEAL.HEX`: hex wire form, IV from the entropy source, word `0x00000150` (R265) -/
  | sealHex
  /-- `SEAL.INJ`: binary envelope, injected IV, word `0x00000250` (R265) -/
  | sealInj
  /-- `SEAL.HEX.INJ`: hex wire form, injected IV, word `0x00000350` (R265) -/
  | sealHexInj
  /-- `OPEN`: binary envelope, word `0x00000051` (44_envelope.md R266) -/
  | openBin
  /-- `OPEN.HEX`: hex text, word `0x00000151` (R266) -/
  | openHex
deriving DecidableEq, Repr

/-- The written mnemonic of a command (30_encoding.md R128). -/
def Instr.mnemonic : Instr → String
  | .nop => "NOP"
  | .keyCommit => "KEY_COMMIT"
  | .keyClear => "KEY_CLEAR"
  | .pad => "PAD"
  | .unpad => "UNPAD"
  | .aesCbcEnc => "AES_CBC_ENC"
  | .aesCbcDec => "AES_CBC_DEC"
  | .hmacGen => "HMAC_GEN"
  | .hmacVerify => "HMAC_VERIFY"
  | .hexEnc => "HEX_ENC"
  | .hexDec => "HEX_DEC"
  | .sealBin => "SEAL"
  | .sealHex => "SEAL.HEX"
  | .sealInj => "SEAL.INJ"
  | .sealHexInj => "SEAL.HEX.INJ"
  | .openBin => "OPEN"
  | .openHex => "OPEN.HEX"

/-- Every command, in the order of the opcode table. -/
def Instr.all : List Instr :=
  [.nop, .keyCommit, .keyClear, .pad, .unpad, .aesCbcEnc, .aesCbcDec, .hmacGen, .hmacVerify, .hexEnc, .hexDec,
   .sealBin, .sealHex, .sealInj, .sealHexInj, .openBin, .openHex]

end Sys2Proof
end

