-- ==== Sys2Proof/WellFormed.lean ====
section
/-! DEFINITION. Which commands and which command words are well formed (30_encoding.md R121 to R124). -/

namespace Sys2Proof

/-- Every term of `Instr` is well formed: a command carries no operand that could be out of range (R122). -/
def Instr.wellFormed (_ : Instr) : Bool := true

/-- The fields of a command word (R121). -/
structure CommandFields where
  /-- bits 7:0, the operation -/
  op : Byte
  /-- bit 8 -/
  hex : Bool
  /-- bit 9 -/
  ivsrc : Bool
  /-- bits 31:10, must be 0 -/
  rsv : BitVec 22
deriving DecidableEq, Repr

/-- The assigned `OP` values (R123). Every other value is reserved (R124). -/
def assignedOps : List Byte :=
  [0x00, 0x01, 0x02, 0x10, 0x11, 0x20, 0x21, 0x30, 0x31, 0x40, 0x41, 0x50, 0x51]

/-- The `OP` is one of the values of R123. -/
def CommandFields.opAssigned (f : CommandFields) : Bool := assignedOps.contains f.op

/-- The `RSV` field is 0. -/
def CommandFields.rsvZero (f : CommandFields) : Bool := f.rsv == 0

/-- Every flag bit that is 1 is allowed for the `OP` by R123: `HEX` for `SEAL` and `OPEN`, `IVSRC` for `SEAL`. -/
def CommandFields.flagsAllowed (f : CommandFields) : Bool :=
  (!f.hex || f.op == 0x50 || f.op == 0x51) && (!f.ivsrc || f.op == 0x50)

/-- A command word is legal exactly when its `OP` is assigned, its `RSV` is 0 and its flags are allowed (R124). -/
def CommandFields.legal (f : CommandFields) : Bool := f.opAssigned && f.rsvZero && f.flagsAllowed

end Sys2Proof
end

