-- ==== Sys2Proof/Decode.lean ====
section
/-! DEFINITION. The decoder, total on every command word (30_encoding.md R126), and the encoder (R123). -/

namespace Sys2Proof

/-- Why a command word is illegal (R124). Safe: the engine ends such a word with `E_CMD` and no other effect. -/
inductive DecodeError where
  /-- `RSV` is not 0 -/
  | nonzeroReserved
  /-- the `OP` value is unassigned -/
  | reservedOp
  /-- a flag bit is 1 that the `OP` does not allow -/
  | flagNotAllowed
  /-- not exactly the four bytes of one command word (R120) -/
  | wrongLength
deriving DecidableEq, Repr

/-- The fields of a command word (R121). -/
def commandFields (w : Word) : CommandFields where
  op := w.extractLsb' 0 8
  hex := w.getLsbD 8
  ivsrc := w.getLsbD 9
  rsv := w.extractLsb' 10 22

/-- The commands whose `OP` allows no flag (R123): `none` for every other `OP`. -/
def plainCommand (op : Byte) : Option Instr :=
  if op = 0x00 then some .nop
  else if op = 0x01 then some .keyCommit
  else if op = 0x02 then some .keyClear
  else if op = 0x10 then some .pad
  else if op = 0x11 then some .unpad
  else if op = 0x20 then some .aesCbcEnc
  else if op = 0x21 then some .aesCbcDec
  else if op = 0x30 then some .hmacGen
  else if op = 0x31 then some .hmacVerify
  else if op = 0x40 then some .hexEnc
  else if op = 0x41 then some .hexDec
  else none

/-- The `SEAL` form its two flags select (R123). -/
def sealForm (hex ivsrc : Bool) : Instr :=
  match hex, ivsrc with
  | false, false => .sealBin
  | true, false => .sealHex
  | false, true => .sealInj
  | true, true => .sealHexInj

/-- The `OPEN` form its flag selects (R123). -/
def openForm (hex : Bool) : Instr :=
  match hex with
  | false => .openBin
  | true => .openHex

/-- `Decode(w)` of R126: a command, or `Illegal` with the reason. -/
def decode (w : Word) : Except DecodeError Instr :=
  let f := commandFields w
  if f.rsv ≠ 0 then .error .nonzeroReserved
  else if f.op = 0x50 then .ok (sealForm f.hex f.ivsrc)
  else if f.op = 0x51 then if f.ivsrc then .error .flagNotAllowed else .ok (openForm f.hex)
  else
    match plainCommand f.op with
    | none => .error .reservedOp
    | some i => if f.hex || f.ivsrc then .error .flagNotAllowed else .ok i

/-- A command word from its four bytes on the bus, the first in bits 7:0 (20_memory.md R82). There are no other lengths
(R120). -/
def decodeBytes : Bytes → Except DecodeError Instr
  | [b0, b1, b2, b3] => decode (b3 ++ b2 ++ b1 ++ b0)
  | _ => .error .wrongLength

/-- The fields of a command's word (R121, R123). -/
def commandOf : Instr → CommandFields
  | .nop => ⟨0x00, false, false, 0⟩
  | .keyCommit => ⟨0x01, false, false, 0⟩
  | .keyClear => ⟨0x02, false, false, 0⟩
  | .pad => ⟨0x10, false, false, 0⟩
  | .unpad => ⟨0x11, false, false, 0⟩
  | .aesCbcEnc => ⟨0x20, false, false, 0⟩
  | .aesCbcDec => ⟨0x21, false, false, 0⟩
  | .hmacGen => ⟨0x30, false, false, 0⟩
  | .hmacVerify => ⟨0x31, false, false, 0⟩
  | .hexEnc => ⟨0x40, false, false, 0⟩
  | .hexDec => ⟨0x41, false, false, 0⟩
  | .sealBin => ⟨0x50, false, false, 0⟩
  | .sealHex => ⟨0x50, true, false, 0⟩
  | .sealInj => ⟨0x50, false, true, 0⟩
  | .sealHexInj => ⟨0x50, true, true, 0⟩
  | .openBin => ⟨0x51, false, false, 0⟩
  | .openHex => ⟨0x51, true, false, 0⟩

/-- A command word from its fields (the diagram of R121). -/
def wordOfFields (f : CommandFields) : Word :=
  f.rsv ++ BitVec.ofBool f.ivsrc ++ BitVec.ofBool f.hex ++ f.op

/-- `enc(m)`: the word of a command (R123, R130). -/
def encode (i : Instr) : Word := wordOfFields (commandOf i)

/-- The instruction that the decoder reads from the opcode table's bits `w`: the 32 bits laid out as four bytes in lane
order (20_memory.md R82), bits above `nbits` taken as 0. -/
def decodeTableWord (nbits w : Nat) : Option Instr :=
  let v : Word := BitVec.ofNat 32 (w % 2 ^ nbits)
  (decodeBytes [v.extractLsb' 0 8, v.extractLsb' 8 8, v.extractLsb' 16 8, v.extractLsb' 24 8]).toOption

end Sys2Proof
end

