-- ==== Sys2Proof/Config.lean ====
section
/-! DEFINITION. What an implementation fixes: the spec's constants (00_scope.md R6), its two named parameters (R7), and
the free values of its non-deterministic inputs (R8), which have no body: no proof can see what they are. -/

namespace Sys2Proof

/-- `BLK`, the AES block and the padding block (R6). -/
abbrev Config.blk : Nat := 16

/-- `HDR_LEN`, the envelope header (R6). -/
abbrev Config.hdrLen : Nat := 5

/-- `IV_LEN` (R6). -/
abbrev Config.ivLen : Nat := 16

/-- `TAG_LEN`, the HMAC-SHA1 signature (R6). -/
abbrev Config.tagLen : Nat := 20

/-- `MIN_ENV` = 5 + 16 + 20 (R6). -/
abbrev Config.minEnv : Nat := 41

/-- `HKEY_MAX`, the largest HMAC key the key register file holds (R6, R46). -/
abbrev Config.hkeyMax : Nat := 64

/-- `ID_VALUE` (R6, R34). -/
abbrev Config.idValue : Word := 0x53543201

/-- The cipher mode code of CBC in `KEYCFG.MODE` (R45). -/
abbrev Config.modeCbc : Byte := 0x01

/-- The parameter `UNPAD_ZERO` (R7): what unpadding does when the last byte is `0x00` (R172). -/
inductive UnpadZero where
  /-- "the final n bytes removed" with n = 0 -/
  | keep
  /-- the empty string -/
  | empty
deriving DecidableEq, Repr

/-- The named parameters that the model takes as arguments (R7). They are fixed for one machine and carried in
`State.params`, which no step writes, so that a claim over all states is a claim over all parameters. DESIGN CHOICE, safe
(log entry 1). -/
structure Params where
  /-- `DMEM_BYTES`, the size in bytes of the data memory -/
  dmemBytes : Nat
  /-- `UNPAD_ZERO` -/
  unpadZero : UnpadZero
deriving DecidableEq, Repr

/-- The legal values of the parameters (R7): `DMEM_BYTES` a multiple of 16 with 64 ≤ `DMEM_BYTES` ≤ 65536. -/
abbrev Params.Legal (p : Params) : Prop :=
  p.dmemBytes % 16 = 0 ∧ 64 ≤ p.dmemBytes ∧ p.dmemBytes ≤ 65536

/-- The default of each parameter (R7). -/
def Params.default : Params := { dmemBytes := 16384, unpadZero := .keep }

/-- FREE VALUE (R8, R306, U1, U2): the answer of the entropy source to draw number `n`, `some` 16 bytes for `ok(b)` and
`none` for `fail`. Nothing is known of it: uniqueness and randomness are no properties of the model. DESIGN CHOICE, safe
(log entry 4). -/
opaque Config.entropyAnswer : Nat → Option (Vector Byte 16)

/-- FREE VALUE (R8, R341, U5): the byte that the data memory holds at an address after reset number `n`, until the host
or a command writes it. DESIGN CHOICE, safe (log entry 5). -/
opaque Config.dmemAtReset : Nat → Nat → Byte

end Sys2Proof
end

