-- ==== Sys2Proof/Machine/State.lean ====
section
/-! DEFINITION. The state of the engine (10_state.md), as plain data: every register of the map R33 under its own name, the
hidden state R51, the data memory R54, and the model's own fields (the inputs still to come from outside the engine, the
counters of the free values, and the bus reply that the host read last). -/

namespace Sys2Proof.Machine

/-- An error code of `STATUS.ERR` other than `E_OK` (60_exceptions.md R300). Codes 9 to 15 are never reported, so they have
no constructor. -/
inductive Failure where
  /-- `E_FORMAT`, code 1 (R301) -/
  | format
  /-- `E_AUTH`, code 2 (R302) -/
  | auth
  /-- `E_CONFIG`, code 3 (R303) -/
  | config
  /-- `E_ENTROPY`, code 4 (R306) -/
  | entropy
  /-- `E_NOKEY`, code 5 (R304) -/
  | noKey
  /-- `E_RANGE`, code 6 (R305) -/
  | range
  /-- `E_OVERLAP`, code 7 (R305) -/
  | overlap
  /-- `E_CMD`, code 8 (R307) -/
  | cmd
deriving DecidableEq, Repr

/-- The registers of the register map (10_state.md R33). -/
inductive Reg where
  | id
  | dmemSize
  | ctrl
  | status
  | cmd
  | srcAddr
  | srcLen
  | dstAddr
  | auxAddr
  | outLen
  | aesKey (i : Fin 8)
  | keycfg
  | hkeyLen
  | hkey (i : Fin 16)
  | iv (i : Fin 4)
deriving DecidableEq, Repr

/-- The width of a host access: 1, 2 or 4 bytes (20_memory.md R82). -/
inductive Width where
  | byte
  | half
  | word
deriving DecidableEq, Repr

/-- One host bus access at a 17-bit byte offset of the engine's window (20_memory.md R80). A write narrower than the bus
uses the low bytes of `data` (R82). -/
inductive Access where
  | read (width : Width) (off : BitVec 17)
  | write (width : Width) (off : BitVec 17) (data : Word)
deriving DecidableEq, Repr

/-- What happens next from outside, or which agent moves next (10_state.md R30, 70_reset_and_hazards.md R340). -/
inductive Turn where
  /-- one bus access of the host -/
  | host (a : Access)
  /-- the engine's step, if it is enabled -/
  | engine
  /-- an assertion of the reset input `rst` -/
  | rst
deriving DecidableEq, Repr

/-- The data memory as the bytes that were written since the last reset, a list of (address, byte) pairs with addresses
strictly rising. A byte that is not listed holds no written value: what reading it gives is a free value (R341). -/
abbrev Memory := List Host.Cell

/-- The machine's state. -/
structure State where
  /-- the parameters of R7; no step writes them -/
  params : Params
  /-- `CTRL.IRQ_EN` (R36) -/
  irqEn : Bool
  /-- `CTRL.IVINJ_EN` (R36) -/
  ivinjEn : Bool
  /-- `CTRL.IVINJ_LOCK` (R36) -/
  ivinjLock : Bool
  /-- `STATUS.BUSY` (R37) -/
  busy : Bool
  /-- `STATUS.DONE` (R37) -/
  done : Bool
  /-- `STATUS.ACCERR` (R37) -/
  accErr : Bool
  /-- `STATUS.KEY_VALID` (R37) -/
  keyValid : Bool
  /-- `STATUS.RNGFAIL` (R37, R52) -/
  rngFail : Bool
  /-- `STATUS.ERR` (R37, R300); `none` is `E_OK` -/
  err : Option Failure
  /-- `CURCMD`, the command word latched by the accepted `CMD` write (R38, R51) -/
  curcmd : Word
  /-- `SRC_ADDR` (R39) -/
  srcAddr : Word
  /-- `SRC_LEN` (R40) -/
  srcLen : Word
  /-- `DST_ADDR` (R41) -/
  dstAddr : Word
  /-- `AUX_ADDR` (R42) -/
  auxAddr : Word
  /-- `OUT_LEN` (R43) -/
  outLen : Word
  /-- `AES_KEY0` to `AES_KEY7` (R44) -/
  aesKey : Vector Word 8
  /-- `KEYCFG.SIZE` (R45) -/
  keySize : BitVec 16
  /-- `KEYCFG.MODE` (R45) -/
  keyMode : Byte
  /-- `HKEY_LEN.LEN` (R46) -/
  hkeyLen : BitVec 16
  /-- `HKEY0` to `HKEY15` (R47) -/
  hkey : Vector Word 16
  /-- `IV0` to `IV3` (R48) -/
  iv : Vector Word 4
  /-- `DMEM` (R54) -/
  dmem : Memory
  /-- the model's own: the answers of the entropy source to come, the next one first (R8): `some` 16 bytes for `ok(b)`,
  `none` for `fail`. DESIGN CHOICE, safe (log entry 4) -/
  entropy : List (Option (Vector Byte 16))
  /-- the model's own: how many draws were taken beyond that list, the argument of `Config.entropyAnswer` -/
  draws : Nat
  /-- the model's own: how many times `rst` was asserted, the argument of `Config.dmemAtReset` -/
  resets : Nat
  /-- the model's own: the turns to come, the next one first; with none left, the engine moves whenever it is
  enabled. DESIGN CHOICE, unsafe (log entry 2) -/
  turns : List Turn
  /-- the model's own: the bus data that the host's last read returned. DESIGN CHOICE, unsafe (log entry 6) -/
  rdata : Word
deriving DecidableEq, Repr

/-- The reasons for which the machine stops with a fault: NONE. Safe: the engine has no traps, every command completes
(60_exceptions.md R310, 40_control.md R150), and a host access error is a status bit (R308). -/
inductive Fault where
deriving DecidableEq, Repr

/-- The reasons for which the model gives an instruction no meaning. -/
inductive Refusal where
  /-- raised by `exec` alone, for an instruction whose meaning is not written yet. Safe: nothing is claimed of it. No arm
  of `exec` raises it now. -/
  | notModelled (mnemonic : String)
deriving DecidableEq, Repr

/-- The state right after reset (70_reset_and_hazards.md R340) of a machine with the given parameters, after `n` resets:
every register 0, the data memory with nothing written (R341). The model's own fields start empty or 0: DESIGN CHOICE,
unsafe (log entries 6 and 8). -/
def State.resetWith (p : Params) (n : Nat) : State where
  params := p
  irqEn := false
  ivinjEn := false
  ivinjLock := false
  busy := false
  done := false
  accErr := false
  keyValid := false
  rngFail := false
  err := none
  curcmd := 0
  srcAddr := 0
  srcLen := 0
  dstAddr := 0
  auxAddr := 0
  outLen := 0
  aesKey := Vector.replicate 8 0
  keySize := 0
  keyMode := 0
  hkeyLen := 0
  hkey := Vector.replicate 16 0
  iv := Vector.replicate 4 0
  dmem := []
  entropy := []
  draws := 0
  resets := n
  turns := []
  rdata := 0

/-- The machine right after power-on reset, with the default parameters (R7, R340). -/
def State.reset : State := State.resetWith Params.default 0

end Sys2Proof.Machine
end

