-- ==== Sys2Proof/Machine/Flags.lean ====
section
/-! DEFINITION. The status and control words, their write effects, the error code numbers and the interrupt output
(10_state.md R36 to R38, R45, R55; 60_exceptions.md R300, R311). -/

namespace Sys2Proof.Machine

/-- The code of `STATUS.ERR` (60_exceptions.md R300); `none` is `E_OK`. -/
def errCode : Option Failure → BitVec 4
  | none => 0
  | some .format => 1
  | some .auth => 2
  | some .config => 3
  | some .entropy => 4
  | some .noKey => 5
  | some .range => 6
  | some .overlap => 7
  | some .cmd => 8

/-- `reg[IVINJ_EN]` (10_state.md R36): it reads 0 while `IVINJ_LOCK = 1`. DEDUCED, safe (log entry 11): stage S2 reads the
field the same way. -/
def injectionEnabled (s : State) : Bool := s.ivinjEn && !s.ivinjLock

/-- `CTRL` as it reads (10_state.md R36). -/
def ctrlWord (s : State) : Word :=
  (0 : BitVec 29) ++ BitVec.ofBool s.ivinjLock ++ BitVec.ofBool (injectionEnabled s) ++ BitVec.ofBool s.irqEn

/-- `STATUS` as it reads (10_state.md R37). -/
def statusWord (s : State) : Word :=
  (0 : BitVec 20) ++ errCode s.err ++ (0 : BitVec 3) ++ BitVec.ofBool s.rngFail ++ BitVec.ofBool s.keyValid ++
    BitVec.ofBool s.accErr ++ BitVec.ofBool s.done ++ BitVec.ofBool s.busy

/-- `KEYCFG` as it reads (10_state.md R45). -/
def keycfgWord (s : State) : Word := (0 : BitVec 8) ++ s.keyMode ++ s.keySize

/-- `HKEY_LEN` as it reads (10_state.md R46). -/
def hkeyLenWord (s : State) : Word := (0 : BitVec 16) ++ s.hkeyLen

/-- A write to `CTRL` in the order of 10_state.md R36: `IRQ_EN`, then the lock, then `IVINJ_EN` under the new lock. -/
def writeCtrl (v : Word) (s : State) : State :=
  { s with
    irqEn := v.getLsbD 0
    ivinjLock := s.ivinjLock || v.getLsbD 2
    ivinjEn := if s.ivinjLock || v.getLsbD 2 then false else v.getLsbD 1 }

/-- A write to `STATUS` (10_state.md R37): `DONE` and `ACCERR` are W1C, all other bits are ignored. -/
def writeStatus (v : Word) (s : State) : State :=
  { s with
    done := s.done && !v.getLsbD 1
    accErr := s.accErr && !v.getLsbD 2 }

/-- An accepted `CMD` write (10_state.md R38). It does not look at the word. -/
def acceptCommand (w : Word) (s : State) : State :=
  { s with curcmd := w, busy := true, done := false, err := none, outLen := 0 }

/-- The interrupt output `irq = IRQ_EN & DONE` (10_state.md R55, 60_exceptions.md R311). -/
def irq (s : State) : Bool := s.irqEn && s.done

/-- A dropped host access sets the sticky `STATUS.ACCERR` and nothing else (60_exceptions.md R308). -/
def dropAccess (s : State) : State := { s with accErr := true }

end Sys2Proof.Machine
end

