-- ==== Sys2Proof/Machine/Bytes.lean ====
section
/-! DEFINITION. Byte strings and words: lane order and big-endian order, blocks, exclusive-or (00_scope.md R9, R10). -/

namespace Sys2Proof.Machine

/-- The four bytes of a register in lane order, bits 7:0 first (20_memory.md R82). -/
def wordLE (w : Word) : Bytes :=
  [w.extractLsb' 0 8, w.extractLsb' 8 8, w.extractLsb' 16 8, w.extractLsb' 24 8]

/-- `LE32(s)`: the word whose least significant byte is `s[0]` (R10); bytes beyond the end of `s` count as 0. -/
def le32 (s : Bytes) : Word := s.getD 3 0 ++ s.getD 2 0 ++ s.getD 1 0 ++ s.getD 0 0

/-- `BE32⁻¹(x)`: the four bytes of a word, most significant first (43_mac.md R233). -/
def wordBE (w : Word) : Bytes :=
  [w.extractLsb' 24 8, w.extractLsb' 16 8, w.extractLsb' 8 8, w.extractLsb' 0 8]

/-- `BE32(s)`: the word whose most significant byte is `s[0]` (R10). -/
def be32 (s : Bytes) : Word := s.getD 0 0 ++ s.getD 1 0 ++ s.getD 2 0 ++ s.getD 3 0

/-- `BE64(x)`: the 8-byte big-endian encoding of `x` (43_mac.md R230). -/
def be64 (x : Nat) : Bytes := (List.range 8).map fun i => BitVec.ofNat 8 (x >>> (8 * (7 - i)))

/-- `n × [v]` (R9). -/
def repeated (n : Nat) (v : Byte) : Bytes := List.replicate n v

/-- `a ⊕ b`, byte by byte, on two byte strings of equal length (R10). Of strings of unequal length the longer one's end is
dropped. DESIGN CHOICE, safe (log entry 13). -/
def xorBytes (a b : Bytes) : Bytes := List.zipWith (· ^^^ ·) a b

/-- The first `m` consecutive pieces of `k` bytes of a byte string, in order. -/
def chunks (k : Nat) : Nat → Bytes → List Bytes
  | 0, _ => []
  | m + 1, s => s.take k :: chunks k m (s.drop k)

end Sys2Proof.Machine
end

