-- ==== Sys2Proof/Machine/Ops.lean ====
section
/-! DEFINITION. The shared operations: the data memory (20_memory.md R90 to R93), the check stages S2 to S7 and the
completion that every command ends with (40_control.md R151, R152), and the reset (70_reset_and_hazards.md R340). -/

namespace Sys2Proof.Machine

/-- The byte written at an address since the last reset; `none` where nothing has been written. -/
def Memory.read : Memory → Nat → Option Byte
  | [], _ => none
  | (b, v) :: m, a => if a = b then some v else Memory.read m a

/-- Write one byte, keeping the addresses strictly rising. -/
def Memory.write : Memory → Nat → Byte → Memory
  | [], a, v => [(a, v)]
  | (b, w) :: m, a, v =>
    if a < b then (a, v) :: (b, w) :: m
    else if a = b then (a, v) :: m
    else (b, w) :: Memory.write m a v

/-- Write the bytes of a string at `a`, `a + 1`, … -/
def Memory.writeBytes (m : Memory) (a : Nat) : Bytes → Memory
  | [] => m
  | v :: vs => Memory.writeBytes (Memory.write m a v) (a + 1) vs

/-- Every address of the list is above `a`, and they rise strictly. -/
def Memory.risesFrom : Option Nat → Memory → Bool
  | _, [] => true
  | none, c :: m => Memory.risesFrom (some c.1) m
  | some a, c :: m => decide (a < c.1) && Memory.risesFrom (some c.1) m

/-- The canonical form: addresses strictly rising. An unlisted address holds no written value, so no entry can equal it. -/
def Memory.wf (m : Memory) : Bool := Memory.risesFrom none m

/-- `DMEM[a]` (10_state.md R54). A byte that nothing has written since the last reset is a free value (R341): nothing
constrains it, and it stays the same until it is written. -/
def State.byteAt (s : State) (a : Nat) : Byte := (s.dmem.read a).getD (Config.dmemAtReset s.resets a)

/-- `MemRead(a, n)` (20_memory.md R90). -/
def memRead (s : State) (a n : Nat) : Bytes := (List.range' a n).map s.byteAt

/-- `MemWrite(a, n, v)` with `n = len(v)` (20_memory.md R90). -/
def memWrite (a : Nat) (v : Bytes) (s : State) : State := { s with dmem := s.dmem.writeBytes a v }

/-- `InRange(a, n)`, on unbounded integers (20_memory.md R91). -/
def inRange (s : State) (a n : Nat) : Bool := decide (a + n ≤ s.params.dmemBytes)

/-- `Overlap(a, n, b, m)` (20_memory.md R92). -/
def overlap (a n b m : Nat) : Bool := decide (n > 0 ∧ m > 0 ∧ a < b + m ∧ b < a + n)

/-- Completion (40_control.md R151), the engine's only "trap" (60_exceptions.md R310): a command that ends with `E_OK`
writes its whole output at `DST_ADDR` by one write; one that raised writes no byte of the data memory. -/
def complete (r : Except Failure Bytes) (s : State) : State :=
  { s with
    dmem := match r with
      | .ok out => s.dmem.writeBytes s.dstAddr.toNat out
      | .error _ => s.dmem
    outLen := match r with
      | .ok out => BitVec.ofNat 32 out.length
      | .error _ => 0
    err := match r with
      | .ok _ => none
      | .error e => some e
    busy := false
    done := true }

/-- What stages S6 and S7 check of a command (40_control.md R152). -/
inductive Target where
  /-- an output of at most `maxOut` bytes at `DST_ADDR` -/
  | output (maxOut : Nat)
  /-- no output, and a 20-byte tag at `AUX_ADDR` -/
  | tag
deriving DecidableEq, Repr

/-- One command's row of the tables of 40_control.md R152, for the current `SRC_LEN`. -/
structure Checks where
  /-- stage S2 applies: `SEAL` with `IVSRC = 1` -/
  injected : Bool := false
  /-- stage S3 applies: `NeedsKey(cmd)` -/
  keyed : Bool := false
  /-- the length check of stage S5 raises -/
  badLength : Bool := false
  /-- stages S6 and S7 -/
  target : Target
deriving DecidableEq, Repr

/-- Stage S6 passes. -/
def Target.fits (s : State) : Target → Bool
  | .output maxOut => inRange s s.dstAddr.toNat maxOut
  | .tag => inRange s s.auxAddr.toNat Config.tagLen

/-- Stage S7 raises. -/
def Target.overlapsSource (s : State) : Target → Bool
  | .output maxOut => overlap s.srcAddr.toNat s.srcLen.toNat s.dstAddr.toNat maxOut
  | .tag => false

/-- Stages S2 to S7 in their order: the first that raises decides the code (40_control.md R152). -/
def Checks.firstFailure (c : Checks) (s : State) : Option Failure :=
  if c.injected && !injectionEnabled s then some .cmd
  else if c.keyed && !s.keyValid then some .noKey
  else if !inRange s s.srcAddr.toNat s.srcLen.toNat then some .range
  else if c.badLength then some .format
  else if !c.target.fits s then some .range
  else if c.target.overlapsSource s then some .overlap
  else none

/-- `Execute` followed by `Complete` for a command that takes no entropy draw (40_control.md R150, R152): the stages,
then the body `r` of stage S9. -/
def runCommand (c : Checks) (r : Except Failure Bytes) (s : State) : State :=
  match c.firstFailure s with
  | some e => complete (.error e) s
  | none => complete r s

/-- `Entropy16()` (60_exceptions.md R306): the answer of the next draw, and the state with that draw taken. The answers are
an input from outside; beyond those that the state lists, the answer is a free value. DESIGN CHOICE, safe (log entry 4). -/
def entropyDraw (s : State) : Option (Vector Byte 16) × State :=
  match s.entropy with
  | r :: rs => (r, { s with entropy := rs })
  | [] => (Config.entropyAnswer s.draws, { s with draws := s.draws + 1 })

/-- Stage S8 given the answer of the draw, then the body, which gets the drawn 16 bytes (60_exceptions.md R306). A failed
draw sets `RNGFAIL`, the one body state change that survives a raised error. -/
def finishDraw (answer : Option (Vector Byte 16)) (body : Bytes → Except Failure Bytes) (s : State) : State :=
  match answer with
  | none => complete (.error .entropy) { s with rngFail := true }
  | some b => complete (body b.toList) s

/-- As `runCommand`, for a command with stage S8: while `RNGFAIL = 1` no draw is taken (60_exceptions.md R306). -/
def runDrawingCommand (c : Checks) (body : Bytes → Except Failure Bytes) (s : State) : State :=
  match c.firstFailure s with
  | some e => complete (.error e) s
  | none =>
    if s.rngFail then complete (.error .entropy) s
    else finishDraw (entropyDraw s).1 body (entropyDraw s).2

/-- An asserted `rst` (70_reset_and_hazards.md R340 to R342): the state of R340 for the same parameters, with a new draw
of the data memory. What is outside the engine (the answers and the turns to come, the draws already taken, the data that
the host has read) is not the engine's to reset. DESIGN CHOICE, unsafe (log entry 8). -/
def hardReset (s : State) : State :=
  { State.resetWith s.params (s.resets + 1) with
    entropy := s.entropy
    draws := s.draws
    turns := s.turns
    rdata := s.rdata }

end Sys2Proof.Machine
end

