-- ==== Sys2Proof/Machine/Operands.lean ====
section
/-! DEFINITION. The operands that commands read from registers and data memory (30_encoding.md R122). -/

namespace Sys2Proof.Machine

/-- `L = SRC_LEN` (10_state.md R40). -/
def srcLength (s : State) : Nat := s.srcLen.toNat

/-- The source region, `MemRead(SRC_ADDR, L)`. -/
def sourceBytes (s : State) : Bytes := memRead s s.srcAddr.toNat (srcLength s)

/-- The tag region, `MemRead(AUX_ADDR, 20)` (43_mac.md R239). -/
def tagBytes (s : State) : Bytes := memRead s s.auxAddr.toNat Config.tagLen

/-- A byte string held in consecutive registers: byte `k` is in register `k div 4`, bits `8·(k mod 4)+7 : 8·(k mod 4)`
(20_memory.md R82). -/
def registerBytes (ws : List Word) : Bytes := ws.flatMap wordLE

/-- `AESKEY`: key bytes `0 .. KEYCFG.SIZE/8 - 1` (10_state.md R44, 42_cipher.md R205). -/
def aesKeyBytes (s : State) : Bytes := (registerBytes s.aesKey.toList).take (s.keySize.toNat / 8)

/-- `HKEY`: bytes `0 .. HKEY_LEN.LEN-1` (10_state.md R47). -/
def hmacKeyBytes (s : State) : Bytes := (registerBytes s.hkey.toList).take s.hkeyLen.toNat

/-- `IVREG`: the 16 bytes of `IV0` to `IV3` (10_state.md R48). -/
def ivBytes (s : State) : Bytes := registerBytes s.iv.toList

end Sys2Proof.Machine
end

