-- ==== Sys2Proof/Machine/Bus.lean ====
section
/-! DEFINITION. The host's bus accesses: the register map (10_state.md R33 to R50), the address map and the access rules
(20_memory.md R80 to R89). -/

namespace Sys2Proof.Machine

/-- The offset of a register in the register space (10_state.md R33). -/
def Reg.offset : Reg → Nat
  | .id => 0x000
  | .dmemSize => 0x004
  | .ctrl => 0x008
  | .status => 0x00C
  | .cmd => 0x010
  | .srcAddr => 0x014
  | .srcLen => 0x018
  | .dstAddr => 0x01C
  | .auxAddr => 0x020
  | .outLen => 0x024
  | .aesKey i => 0x040 + 4 * i.val
  | .keycfg => 0x060
  | .hkeyLen => 0x064
  | .hkey i => 0x080 + 4 * i.val
  | .iv i => 0x0C0 + 4 * i.val

/-- The register at an offset that is a multiple of 4 (10_state.md R33); `none` is a reserved offset (R49). -/
def Reg.ofOffset (off : Nat) : Option Reg :=
  if off = 0x000 then some .id
  else if off = 0x004 then some .dmemSize
  else if off = 0x008 then some .ctrl
  else if off = 0x00C then some .status
  else if off = 0x010 then some .cmd
  else if off = 0x014 then some .srcAddr
  else if off = 0x018 then some .srcLen
  else if off = 0x01C then some .dstAddr
  else if off = 0x020 then some .auxAddr
  else if off = 0x024 then some .outLen
  else if 0x040 ≤ off ∧ off ≤ 0x05C then some (.aesKey (Fin.ofNat 8 ((off - 0x040) / 4)))
  else if off = 0x060 then some .keycfg
  else if off = 0x064 then some .hkeyLen
  else if 0x080 ≤ off ∧ off ≤ 0x0BC then some (.hkey (Fin.ofNat 16 ((off - 0x080) / 4)))
  else if 0x0C0 ≤ off ∧ off ≤ 0x0CC then some (.iv (Fin.ofNat 4 ((off - 0x0C0) / 4)))
  else none

/-- The number of bytes of an access. -/
def Width.bytes : Width → Nat
  | .byte => 1
  | .half => 2
  | .word => 4

/-- The bus offset of the DMEM aperture (20_memory.md R80). -/
def apertureBase : Nat := 0x10000

/-- Where an access goes. -/
inductive Place where
  | register (r : Reg)
  /-- the bytes of DMEM from `a` on -/
  | dmem (a : Nat)
  /-- an illegal width or alignment (20_memory.md R85), a reserved register offset or the unmapped part of the window
  (R86): the access is dropped -/
  | dropped
deriving DecidableEq, Repr

/-- The place of a host access (20_memory.md R80, R84 to R86). -/
def placeOf (s : State) (w : Width) (off : Nat) : Place :=
  if off < apertureBase then
    if w = .word ∧ off % 4 = 0 then
      match Reg.ofOffset off with
      | some r => .register r
      | none => .dropped
    else .dropped
  else if off % w.bytes = 0 ∧ inRange s (off - apertureBase) w.bytes then .dmem (off - apertureBase)
  else .dropped

/-- What reading a register returns (10_state.md R33 to R48): the write-only registers read 0, so that key material never
leaves the engine (R44, R47). -/
def regRead (s : State) : Reg → Word
  | .id => Config.idValue
  | .dmemSize => BitVec.ofNat 32 s.params.dmemBytes
  | .ctrl => ctrlWord s
  | .status => statusWord s
  | .cmd => 0
  | .srcAddr => s.srcAddr
  | .srcLen => s.srcLen
  | .dstAddr => s.dstAddr
  | .auxAddr => s.auxAddr
  | .outLen => s.outLen
  | .aesKey _ => 0
  | .keycfg => keycfgWord s
  | .hkeyLen => hkeyLenWord s
  | .hkey _ => 0
  | .iv i => s.iv[i]

/-- The key write lock (10_state.md R50): `t` is the state after the write, taken while no key is committed. -/
def unlessLocked (s t : State) : State := if s.keyValid then dropAccess s else t

/-- A write to a register while `BUSY = 0` (10_state.md R34 to R48). -/
def regWriteIdle (r : Reg) (v : Word) (s : State) : State :=
  match r with
  | .id => s
  | .dmemSize => s
  | .ctrl => writeCtrl v s
  | .status => writeStatus v s
  | .cmd => acceptCommand v s
  | .srcAddr => { s with srcAddr := v }
  | .srcLen => { s with srcLen := v }
  | .dstAddr => { s with dstAddr := v }
  | .auxAddr => { s with auxAddr := v }
  | .outLen => s
  | .aesKey i => unlessLocked s { s with aesKey := s.aesKey.set i v }
  | .keycfg => unlessLocked s { s with keySize := v.extractLsb' 0 16, keyMode := v.extractLsb' 16 8 }
  | .hkeyLen => unlessLocked s { s with hkeyLen := v.extractLsb' 0 16 }
  | .hkey i => unlessLocked s { s with hkey := s.hkey.set i v }
  | .iv i => { s with iv := s.iv.set i v }

/-- A write to a register: while `BUSY = 1` only `STATUS` may be written, every other write is dropped (20_memory.md R87).
DEDUCED: that rule is taken over R34, R35 and R43 for a write to a read-only register while busy. Unsafe (log entry 9). -/
def regWrite (r : Reg) (v : Word) (s : State) : State :=
  if s.busy ∧ r ≠ .status then dropAccess s else regWriteIdle r v s

/-- A dropped read returns 0 (20_memory.md R85 to R87). -/
def dropRead (s : State) : State := { dropAccess s with rdata := 0 }

/-- A read of `w` bytes at a place: while `BUSY = 1` a read of the DMEM aperture is dropped (20_memory.md R82, R85 to
R87). The reply of a narrow read is the number its `w` bytes make, with no bits above them. DESIGN CHOICE, unsafe (log
entry 6). -/
def readPlace (w : Width) (s : State) : Place → State
  | .register r => { s with rdata := regRead s r }
  | .dmem d => if s.busy then dropRead s else { s with rdata := le32 (memRead s d w.bytes) }
  | .dropped => dropRead s

/-- A write of the low `w` bytes of `v` at a place (20_memory.md R82, R85 to R87). -/
def writePlace (w : Width) (v : Word) (s : State) : Place → State
  | .register r => regWrite r v s
  | .dmem d => if s.busy then dropAccess s else memWrite d ((wordLE v).take w.bytes) s
  | .dropped => dropAccess s

/-- One host access, one indivisible step (20_memory.md R89). -/
def hostAccess (a : Access) (s : State) : State :=
  match a with
  | .read w off => readPlace w s (placeOf s w off.toNat)
  | .write w off v => writePlace w v s (placeOf s w off.toNat)

end Sys2Proof.Machine
end

