-- ==== Sys2Proof/Machine/Control.lean ====
section
/-! DEFINITION. The commands that manage the key register file, and `NOP` (40_control.md R153 to R155). -/

namespace Sys2Proof.Machine

/-- `NOP` (40_control.md R155): complete without effect. -/
def execNop (s : State) : Host.Outcome State Fault Refusal := .next (complete (.ok []) s)

/-- The checks of `KEY_COMMIT` while no key is committed (40_control.md R153). -/
def keyConfigLegal (s : State) : Bool :=
  s.keyMode == Config.modeCbc && (s.keySize == 128 || s.keySize == 256) && decide (s.hkeyLen.toNat ≤ Config.hkeyMax)

/-- `KEY_COMMIT` (40_control.md R153): validate the key register file and make it immutable. -/
def execKeyCommit (s : State) : Host.Outcome State Fault Refusal :=
  if s.keyValid then .next (complete (.ok []) s)
  else if keyConfigLegal s then .next (complete (.ok []) { s with keyValid := true })
  else .next (complete (.error .config) s)

/-- The erased key register file (40_control.md R154). -/
def clearKeys (s : State) : State :=
  { s with
    aesKey := Vector.replicate 8 0
    hkey := Vector.replicate 16 0
    keySize := 0
    keyMode := 0
    hkeyLen := 0
    keyValid := false }

/-- `KEY_CLEAR` (40_control.md R154): erase the key register file. -/
def execKeyClear (s : State) : Host.Outcome State Fault Refusal := .next (complete (.ok []) (clearKeys s))

end Sys2Proof.Machine
end

