-- ==== Sys2Proof/Machine/Aes.lean ====
section
/-! DEFINITION. The AES block cipher (42_cipher.md R190 to R201). The spec supplies these rules from general knowledge
(FIPS 197) and marks them so; the model follows the spec's text of them (log entry 10). -/

namespace Sys2Proof.Machine

/-- A 4-byte word `[a0, a1, a2, a3]`: a column of the AES state, `a0` in row 0 (42_cipher.md R190). -/
structure Column where
  a0 : Byte
  a1 : Byte
  a2 : Byte
  a3 : Byte
deriving DecidableEq, Repr

/-- The AES state `s[r][c]`, 4 rows and 4 columns (42_cipher.md R190), as its columns. -/
structure Block where
  c0 : Column
  c1 : Column
  c2 : Column
  c3 : Column
deriving DecidableEq, Repr

/-- A word that is never used: what indexing beyond a schedule would give. -/
def zeroColumn : Column := ⟨0, 0, 0, 0⟩

/-- The column made of four bytes of a string from index `i` on. -/
def columnAt (b : Bytes) (i : Nat) : Column := ⟨b.getD i 0, b.getD (i + 1) 0, b.getD (i + 2) 0, b.getD (i + 3) 0⟩

/-- `s[r][c] <- in[r + 4·c]` (42_cipher.md R190). -/
def loadBlock (b : Bytes) : Block := ⟨columnAt b 0, columnAt b 4, columnAt b 8, columnAt b 12⟩

/-- The bytes of a column, row 0 first. -/
def columnBytes (a : Column) : Bytes := [a.a0, a.a1, a.a2, a.a3]

/-- `out[r + 4·c] = s[r][c]` (42_cipher.md R190). -/
def storeBlock (s : Block) : Bytes := columnBytes s.c0 ++ columnBytes s.c1 ++ columnBytes s.c2 ++ columnBytes s.c3

/-- `xtime(b) = ((b << 1) ^ (0x1B if b[7] = 1 else 0)) & 0xFF` (42_cipher.md R191). -/
def xtime (b : Byte) : Byte := (b <<< 1) ^^^ (if b.getLsbD 7 then 0x1B else 0)

/-- The sum over the low `n` bits `i` of `b` that are 1 of `xtime^i(a)`. -/
def gmulBits : Nat → Byte → Byte → Byte
  | 0, _, _ => 0
  | n + 1, a, b => (if b.getLsbD 0 then a else 0) ^^^ gmulBits n (xtime a) (b >>> 1)

/-- `a • b`, multiplication in GF(2^8) modulo 0x11B (42_cipher.md R191). -/
def gmul (a b : Byte) : Byte := gmulBits 8 a b

/-- The affine map `A` of 42_cipher.md R192 with the constant 0x63: bit `i` of the result is
`b[i] ^ b[(i+4) mod 8] ^ b[(i+5) mod 8] ^ b[(i+6) mod 8] ^ b[(i+7) mod 8] ^ c[i]`. -/
def sboxAffine (b : Byte) : Byte :=
  b ^^^ b.rotateRight 4 ^^^ b.rotateRight 5 ^^^ b.rotateRight 6 ^^^ b.rotateRight 7 ^^^ 0x63

/-- The S-box table of 42_cipher.md R192, one literal of 16 entries a row, column 0 leftmost. -/
def sboxRows : List Nat :=
  [0x637c777bf26b6fc53001672bfed7ab76,
   0xca82c97dfa5947f0add4a2af9ca472c0,
   0xb7fd9326363ff7cc34a5e5f171d83115,
   0x04c723c31896059a071280e2eb27b275,
   0x09832c1a1b6e5aa0523bd6b329e32f84,
   0x53d100ed20fcb15b6acbbe394a4c58cf,
   0xd0efaafb434d338545f9027f503c9fa8,
   0x51a3408f929d38f5bcb6da2110fff3d2,
   0xcd0c13ec5f974417c4a77e3d645d1973,
   0x60814fdc222a908846eeb814de5e0bdb,
   0xe0323a0a4906245cc2d3ac629195e479,
   0xe7c8376d8dd54ea96c56f4ea657aae08,
   0xba78252e1ca6b4c6e8dd741f4bbd8b8a,
   0x703eb5664803f60e613557b986c11d9e,
   0xe1f8981169d98e949b1e87e9ce5528df,
   0x8ca1890dbfe6426841992d0fb054bb16]

/-- The inverse S-box table of 42_cipher.md R193, same layout. -/
def invSboxRows : List Nat :=
  [0x52096ad53036a538bf40a39e81f3d7fb,
   0x7ce339829b2fff87348e4344c4dee9cb,
   0x547b9432a6c2233dee4c950b42fac34e,
   0x082ea16628d924b2765ba2496d8bd125,
   0x72f8f66486689816d4a45ccc5d65b692,
   0x6c704850fdedb9da5e154657a78d9d84,
   0x90d8ab008cbcd30af7e45805b8b34506,
   0xd02c1e8fca3f0f02c1afbd0301138a6b,
   0x3a9111414f67dcea97f2cfcef0b4e673,
   0x96ac7422e7ad3585e2f937e81c75df6e,
   0x47f11a711d29c5896fb7620eaa18be1b,
   0xfc563e4bc6d279209adbc0fe78cd5af4,
   0x1fdda8338807c731b11210592780ec5f,
   0x60517fa919b54a0d2de57a9f93c99cef,
   0xa0e03b4dae2af5b0c8ebbb3c83539961,
   0x172b047eba77d626e169146355210c7d]

/-- The entry of a table at row = high nibble of `b`, column = low nibble. -/
def tableEntry (rows : List Nat) (b : Byte) : Byte :=
  BitVec.ofNat 8 (rows.getD (b.toNat / 16) 0 >>> (8 * (15 - b.toNat % 16)))

/-- `S(b)` (42_cipher.md R192). -/
def sbox (b : Byte) : Byte := tableEntry sboxRows b

/-- `InvS(b)` (42_cipher.md R193). -/
def invSbox (b : Byte) : Byte := tableEntry invSboxRows b

/-- Apply a byte function to every row of a column. -/
def Column.map (f : Byte → Byte) (a : Column) : Column := ⟨f a.a0, f a.a1, f a.a2, f a.a3⟩

/-- The exclusive-or of two words. -/
def Column.xor (a b : Column) : Column := ⟨a.a0 ^^^ b.a0, a.a1 ^^^ b.a1, a.a2 ^^^ b.a2, a.a3 ^^^ b.a3⟩

/-- Apply a word function to every column of the state. -/
def Block.mapColumns (f : Column → Column) (s : Block) : Block := ⟨f s.c0, f s.c1, f s.c2, f s.c3⟩

/-- `SubBytes` (42_cipher.md R194). -/
def subBytes (s : Block) : Block := s.mapColumns (Column.map sbox)

/-- `InvSubBytes` (42_cipher.md R194). -/
def invSubBytes (s : Block) : Block := s.mapColumns (Column.map invSbox)

/-- `ShiftRows`: `s'[r][c] = s[r][(c + r) mod 4]` (42_cipher.md R195). -/
def shiftRows (s : Block) : Block where
  c0 := ⟨s.c0.a0, s.c1.a1, s.c2.a2, s.c3.a3⟩
  c1 := ⟨s.c1.a0, s.c2.a1, s.c3.a2, s.c0.a3⟩
  c2 := ⟨s.c2.a0, s.c3.a1, s.c0.a2, s.c1.a3⟩
  c3 := ⟨s.c3.a0, s.c0.a1, s.c1.a2, s.c2.a3⟩

/-- `InvShiftRows`: `s'[r][c] = s[r][(c - r) mod 4]` (42_cipher.md R195). -/
def invShiftRows (s : Block) : Block where
  c0 := ⟨s.c0.a0, s.c3.a1, s.c2.a2, s.c1.a3⟩
  c1 := ⟨s.c1.a0, s.c0.a1, s.c3.a2, s.c2.a3⟩
  c2 := ⟨s.c2.a0, s.c1.a1, s.c0.a2, s.c3.a3⟩
  c3 := ⟨s.c3.a0, s.c2.a1, s.c1.a2, s.c0.a3⟩

/-- `MixColumns` on one column (42_cipher.md R196). -/
def mixColumn (a : Column) : Column where
  a0 := gmul 0x02 a.a0 ^^^ gmul 0x03 a.a1 ^^^ a.a2 ^^^ a.a3
  a1 := a.a0 ^^^ gmul 0x02 a.a1 ^^^ gmul 0x03 a.a2 ^^^ a.a3
  a2 := a.a0 ^^^ a.a1 ^^^ gmul 0x02 a.a2 ^^^ gmul 0x03 a.a3
  a3 := gmul 0x03 a.a0 ^^^ a.a1 ^^^ a.a2 ^^^ gmul 0x02 a.a3

/-- `InvMixColumns` on one column (42_cipher.md R196). -/
def invMixColumn (a : Column) : Column where
  a0 := gmul 0x0E a.a0 ^^^ gmul 0x0B a.a1 ^^^ gmul 0x0D a.a2 ^^^ gmul 0x09 a.a3
  a1 := gmul 0x09 a.a0 ^^^ gmul 0x0E a.a1 ^^^ gmul 0x0B a.a2 ^^^ gmul 0x0D a.a3
  a2 := gmul 0x0D a.a0 ^^^ gmul 0x09 a.a1 ^^^ gmul 0x0E a.a2 ^^^ gmul 0x0B a.a3
  a3 := gmul 0x0B a.a0 ^^^ gmul 0x0D a.a1 ^^^ gmul 0x09 a.a2 ^^^ gmul 0x0E a.a3

/-- `MixColumns` (42_cipher.md R196). -/
def mixColumns (s : Block) : Block := s.mapColumns mixColumn

/-- `InvMixColumns` (42_cipher.md R196). -/
def invMixColumns (s : Block) : Block := s.mapColumns invMixColumn

/-- `AddRoundKey(rnd)` with the key schedule `w` (42_cipher.md R197). -/
def addRoundKey (w : List Column) (rnd : Nat) (s : Block) : Block where
  c0 := s.c0.xor (w.getD (4 * rnd) zeroColumn)
  c1 := s.c1.xor (w.getD (4 * rnd + 1) zeroColumn)
  c2 := s.c2.xor (w.getD (4 * rnd + 2) zeroColumn)
  c3 := s.c3.xor (w.getD (4 * rnd + 3) zeroColumn)

/-- `RotWord` (42_cipher.md R198). -/
def rotWord (a : Column) : Column := ⟨a.a1, a.a2, a.a3, a.a0⟩

/-- `SubWord` (42_cipher.md R198). -/
def subWord (a : Column) : Column := a.map sbox

/-- `xtime^n(b)`. -/
def xtimePow : Nat → Byte → Byte
  | 0, b => b
  | n + 1, b => xtime (xtimePow n b)

/-- `Rcon(j) = xtime^(j-1)(0x01)` (42_cipher.md R198). -/
def rcon (j : Nat) : Byte := xtimePow (j - 1) 0x01

/-- The temporary `t` for word `i` of the schedule, from the word before it (42_cipher.md R198). -/
def scheduleTemp (nk i : Nat) (prev : Column) : Column :=
  if i % nk = 0 then (subWord (rotWord prev)).xor ⟨rcon (i / nk), 0, 0, 0⟩
  else if nk = 8 ∧ i % nk = 4 then subWord prev
  else prev

/-- Append `n` words to a schedule of which `ws` are the words so far, the latest first (42_cipher.md R198). -/
def extendSchedule (nk : Nat) : Nat → List Column → List Column
  | 0, ws => ws
  | n + 1, ws =>
    extendSchedule nk n
      ((ws.getD (nk - 1) zeroColumn).xor (scheduleTemp nk ws.length (ws.headD zeroColumn)) :: ws)

/-- `Nk` of a key of `4·Nk` bytes (42_cipher.md R198, R205). -/
def keyWords (K : Bytes) : Nat := K.length / 4

/-- `Nr = Nk + 6` (42_cipher.md R198). -/
def keyRounds (K : Bytes) : Nat := keyWords K + 6

/-- The key schedule `w`, `4·(Nr+1)` words (42_cipher.md R198). -/
def keySchedule (K : Bytes) : List Column :=
  (extendSchedule (keyWords K) (4 * (keyRounds K + 1) - keyWords K)
    ((List.range (keyWords K)).map fun i => columnAt K (4 * i)).reverse).reverse

/-- `AES_Enc(K, in)` (42_cipher.md R199). -/
def aesEnc (K b : Bytes) : Bytes :=
  let w := keySchedule K
  let nr := keyRounds K
  let s := (List.range' 1 (nr - 1)).foldl
    (fun s rnd => addRoundKey w rnd (mixColumns (shiftRows (subBytes s)))) (addRoundKey w 0 (loadBlock b))
  storeBlock (addRoundKey w nr (shiftRows (subBytes s)))

/-- `AES_Dec(K, in)` (42_cipher.md R200). -/
def aesDec (K b : Bytes) : Bytes :=
  let w := keySchedule K
  let nr := keyRounds K
  let s := (List.range' 1 (nr - 1)).reverse.foldl
    (fun s rnd => invMixColumns (addRoundKey w rnd (invSubBytes (invShiftRows s)))) (addRoundKey w nr (loadBlock b))
  storeBlock (addRoundKey w 0 (invSubBytes (invShiftRows s)))

end Sys2Proof.Machine
end

