-- ==== Sys2Proof/Machine/Cipher.lean ====
section
/-! DEFINITION. CBC mode and the raw cipher commands (42_cipher.md R202 to R208). -/

namespace Sys2Proof.Machine

/-- The chain of `CBC_Enc` over the blocks of a plaintext, `prev` the previous ciphertext block (42_cipher.md R202). -/
def cbcEncBlocks (K : Bytes) : Bytes → List Bytes → Bytes
  | _, [] => []
  | prev, p :: ps => aesEnc K (xorBytes p prev) ++ cbcEncBlocks K (aesEnc K (xorBytes p prev)) ps

/-- The chain of `CBC_Dec` over the blocks of a ciphertext (42_cipher.md R203). -/
def cbcDecBlocks (K : Bytes) : Bytes → List Bytes → Bytes
  | _, [] => []
  | prev, c :: cs => xorBytes (aesDec K c) prev ++ cbcDecBlocks K c cs

/-- `CBC_Enc(K, iv, p)`, `len(p) = 16·m` (42_cipher.md R202). The spec defines it on whole blocks only; of any other string
the bytes after the last whole block are dropped. DESIGN CHOICE, safe (log entry 13): `AES_CBC_ENC` ends with `E_FORMAT` on
such a source (R207), and `SEAL` encrypts a padded string. -/
def cbcEnc (K iv p : Bytes) : Bytes := cbcEncBlocks K iv (chunks Config.blk (p.length / Config.blk) p)

/-- `CBC_Dec(K, iv, c)`, `len(c) = 16·m` (42_cipher.md R203). The spec defines it on whole blocks only; of any other string
the bytes after the last whole block are dropped. DESIGN CHOICE, safe (log entry 13): `AES_CBC_DEC` and `OPEN` end with
`E_FORMAT` on such a ciphertext (R208, 44_envelope.md R266). -/
def cbcDec (K iv c : Bytes) : Bytes := cbcDecBlocks K iv (chunks Config.blk (c.length / Config.blk) c)

/-- The stages of `AES_CBC_ENC` and `AES_CBC_DEC`: a committed key, `E_FORMAT` when `L mod 16 ≠ 0`, `MAXOUT = L`
(40_control.md R152). -/
def cipherChecks (s : State) : Checks :=
  { keyed := true, badLength := srcLength s % Config.blk != 0, target := .output (srcLength s) }

/-- `AES_CBC_ENC` (42_cipher.md R207). -/
def execAesCbcEnc (s : State) : Host.Outcome State Fault Refusal :=
  .next (runCommand (cipherChecks s) (.ok (cbcEnc (aesKeyBytes s) (ivBytes s) (sourceBytes s))) s)

/-- `AES_CBC_DEC` (42_cipher.md R208). -/
def execAesCbcDec (s : State) : Host.Outcome State Fault Refusal :=
  .next (runCommand (cipherChecks s) (.ok (cbcDec (aesKeyBytes s) (ivBytes s) (sourceBytes s))) s)

end Sys2Proof.Machine
end

