-- ==== Sys2Proof/Machine/Hex.lean ====
section
/-! DEFINITION. The hex codec (44_envelope.md R261 to R264). -/

namespace Sys2Proof.Machine

/-- `HexDigit(v)` for a nibble, uppercase (44_envelope.md R261). -/
def hexDigit (v : Byte) : Byte := if v ≤ 9 then 0x30 + v else 0x41 + (v - 10)

/-- `HexEnc(d)`, two characters per byte, high nibble first (44_envelope.md R261). -/
def hexEncode (d : Bytes) : Bytes := d.flatMap fun (b : Byte) => [hexDigit (b >>> 4), hexDigit (b &&& 0x0F)]

/-- `HexVal(ch)` (44_envelope.md R262); `none` is invalid. -/
def hexVal (ch : Byte) : Option Byte :=
  if 0x30 ≤ ch ∧ ch ≤ 0x39 then some (ch - 0x30)
  else if 0x41 ≤ ch ∧ ch ≤ 0x46 then some (ch - 0x41 + 10)
  else if 0x61 ≤ ch ∧ ch ≤ 0x66 then some (ch - 0x61 + 10)
  else none

/-- `HexDec(t)` (44_envelope.md R262): odd length and an invalid character both raise `E_FORMAT`. -/
def hexDecode : Bytes → Except Failure Bytes
  | [] => .ok []
  | [_] => .error .format
  | hi :: lo :: t =>
    match hexVal hi, hexVal lo, hexDecode t with
    | some h, some l, .ok d => .ok ((16 * h + l) :: d)
    | _, _, _ => .error .format

/-- The stages of `HEX_ENC`: `MAXOUT = 2·L` (40_control.md R152). -/
def hexEncChecks (s : State) : Checks := { target := .output (2 * srcLength s) }

/-- `HEX_ENC` (44_envelope.md R263). -/
def execHexEnc (s : State) : Host.Outcome State Fault Refusal :=
  .next (runCommand (hexEncChecks s) (.ok (hexEncode (sourceBytes s))) s)

/-- The stages of `HEX_DEC`: `E_FORMAT` when `L` is odd, `MAXOUT = L/2` (40_control.md R152). -/
def hexDecChecks (s : State) : Checks :=
  { badLength := srcLength s % 2 != 0, target := .output (srcLength s / 2) }

/-- `HEX_DEC` (44_envelope.md R264). -/
def execHexDec (s : State) : Host.Outcome State Fault Refusal :=
  .next (runCommand (hexDecChecks s) (hexDecode (sourceBytes s)) s)

end Sys2Proof.Machine
end

