-- ==== Sys2Proof/Machine/Sha1.lean ====
section
/-! DEFINITION. SHA-1 (43_mac.md R230 to R234). The spec supplies these rules from general knowledge (FIPS 180-4) and
marks them so; the model follows the spec's text of them (log entry 10). -/

namespace Sys2Proof.Machine

/-- The least `k ≥ 0` with `(len + 1 + k) mod 64 = 56` (43_mac.md R230). -/
def shaZeros (len : Nat) : Nat := (119 - len % 64) % 64

/-- The padded message `m'` (43_mac.md R230). -/
def shaPad (m : Bytes) : Bytes := m ++ [0x80] ++ repeated (shaZeros m.length) 0x00 ++ be64 (8 * m.length)

/-- The five words of a hash value, and of the working variables `a` to `e` (43_mac.md R231, R232). -/
structure Sha1State where
  a : Word
  b : Word
  c : Word
  d : Word
  e : Word
deriving DecidableEq, Repr

/-- The initial hash value (43_mac.md R231). -/
def sha1Init : Sha1State := ⟨0x67452301, 0xEFCDAB89, 0x98BADCFE, 0x10325476, 0xC3D2E1F0⟩

/-- `f_t(b, c, d)` (43_mac.md R231). -/
def sha1F (t : Nat) (b c d : Word) : Word :=
  if t < 20 then (b &&& c) ||| (~~~b &&& d)
  else if t < 40 then b ^^^ c ^^^ d
  else if t < 60 then (b &&& c) ||| (b &&& d) ||| (c &&& d)
  else b ^^^ c ^^^ d

/-- `K_t` (43_mac.md R231). -/
def sha1K (t : Nat) : Word :=
  if t < 20 then 0x5A827999 else if t < 40 then 0x6ED9EBA1 else if t < 60 then 0x8F1BBCDC else 0xCA62C1D6

/-- `ROTL_1(W[t-3] ^ W[t-8] ^ W[t-14] ^ W[t-16])`, the words so far latest first (43_mac.md R232). -/
def sha1NextWord (ws : List Word) : Word :=
  (ws.getD 2 0 ^^^ ws.getD 7 0 ^^^ ws.getD 13 0 ^^^ ws.getD 15 0).rotateLeft 1

/-- Append `n` words to a message schedule, the words latest first. -/
def sha1Extend : Nat → List Word → List Word
  | 0, ws => ws
  | n + 1, ws => sha1Extend n (sha1NextWord ws :: ws)

/-- The 80 words `W[0] .. W[79]` of a 64-byte block (43_mac.md R230, R232). -/
def sha1Schedule (M : Bytes) : List Word := (sha1Extend 64 ((chunks 4 16 M).map be32).reverse).reverse

/-- One round with `W[t] = w` (43_mac.md R232). -/
def sha1Round (t : Nat) (w : Word) (h : Sha1State) : Sha1State where
  a := h.a.rotateLeft 5 + sha1F t h.b h.c h.d + h.e + sha1K t + w
  b := h.a
  c := h.b.rotateLeft 30
  d := h.c
  e := h.d

/-- The rounds from `t` on, one for each word. -/
def sha1Rounds : Nat → List Word → Sha1State → Sha1State
  | _, [], h => h
  | t, w :: ws, h => sha1Rounds (t + 1) ws (sha1Round t w h)

/-- The compression of one block into the hash value (43_mac.md R232). -/
def sha1Compress (H : Sha1State) (M : Bytes) : Sha1State :=
  let h := sha1Rounds 0 (sha1Schedule M) H
  ⟨H.a + h.a, H.b + h.b, H.c + h.c, H.d + h.d, H.e + h.e⟩

/-- The 20 bytes of a hash value (43_mac.md R233). -/
def sha1Digest (H : Sha1State) : Bytes := wordBE H.a ++ wordBE H.b ++ wordBE H.c ++ wordBE H.d ++ wordBE H.e

/-- `SHA1(m)` (43_mac.md R233). -/
def sha1 (m : Bytes) : Bytes :=
  sha1Digest ((chunks 64 ((shaPad m).length / 64) (shaPad m)).foldl sha1Compress sha1Init)

end Sys2Proof.Machine
end

