-- ==== Sys2Proof/Machine/Mac.lean ====
section
/-! DEFINITION. HMAC-SHA1, the constant-time comparison and the MAC commands (43_mac.md R235 to R239). -/

namespace Sys2Proof.Machine

/-- `K0`, the key with zero bytes appended to 64 bytes (43_mac.md R235). -/
def hmacBlock (k : Bytes) : Bytes := k ++ repeated (64 - k.length) 0x00

/-- `HMAC_SHA1(k, m)` for a key of at most 64 bytes (43_mac.md R235). -/
def hmacSha1 (k m : Bytes) : Bytes :=
  sha1 (xorBytes (hmacBlock k) (repeated 64 0x5C) ++ sha1 (xorBytes (hmacBlock k) (repeated 64 0x36) ++ m))

/-- `diff` of 43_mac.md R237: the differences of all 20 byte pairs, with no early exit. -/
def tagDifference (a b : Bytes) : Byte :=
  (List.range Config.tagLen).foldl (fun diff i => diff ||| (a.getD i 0 ^^^ b.getD i 0)) 0x00

/-- `CTEq(a, b)` on two 20-byte strings (43_mac.md R237). -/
def ctEq (a b : Bytes) : Bool := tagDifference a b == 0x00

/-- The stages of `HMAC_GEN`: a committed key, `MAXOUT = 20` (40_control.md R152). -/
def hmacGenChecks : Checks := { keyed := true, target := .output Config.tagLen }

/-- `HMAC_GEN` (43_mac.md R238). -/
def execHmacGen (s : State) : Host.Outcome State Fault Refusal :=
  .next (runCommand hmacGenChecks (.ok (hmacSha1 (hmacKeyBytes s) (sourceBytes s))) s)

/-- The stages of `HMAC_VERIFY`: a committed key, the tag region in range, no output (40_control.md R152). -/
def hmacVerifyChecks : Checks := { keyed := true, target := .tag }

/-- The body of `HMAC_VERIFY`: the expected tag is never written anywhere (43_mac.md R239). -/
def verifyBody (s : State) : Except Failure Bytes :=
  if ctEq (tagBytes s) (hmacSha1 (hmacKeyBytes s) (sourceBytes s)) then .ok [] else .error .auth

/-- `HMAC_VERIFY` (43_mac.md R239). -/
def execHmacVerify (s : State) : Host.Outcome State Fault Refusal :=
  .next (runCommand hmacVerifyChecks (verifyBody s) s)

end Sys2Proof.Machine
end

