-- ==== Sys2Proof/Machine/Padding.lean ====
section
/-! DEFINITION. The block padder (41_padding.md). -/

namespace Sys2Proof.Machine

/-- The pad length `n = 16 - (len mod 16)`, 1 to 16 (41_padding.md R170). -/
def padLength (len : Nat) : Nat := Config.blk - len % Config.blk

/-- `Pad(d)` (41_padding.md R170). -/
def padBytes (d : Bytes) : Bytes := d ++ repeated (padLength d.length) (BitVec.ofNat 8 (padLength d.length))

/-- `Unpad(d)` (41_padding.md R172): only the last byte is read, and the pad bytes are not validated. -/
def unpadBytes (z : UnpadZero) (d : Bytes) : Except Failure Bytes :=
  match d.getLast? with
  | none => .error .format
  | some n =>
    if n.toNat > d.length then .error .format
    else if n = 0 then
      match z with
      | .keep => .ok d
      | .empty => .ok []
    else .ok (d.take (d.length - n.toNat))

/-- The stages of `PAD`: `MAXOUT = L + 16 - (L mod 16)` (40_control.md R152). -/
def padChecks (s : State) : Checks := { target := .output (srcLength s + padLength (srcLength s)) }

/-- `PAD` (41_padding.md R171). -/
def execPad (s : State) : Host.Outcome State Fault Refusal :=
  .next (runCommand (padChecks s) (.ok (padBytes (sourceBytes s))) s)

/-- The stages of `UNPAD`: `E_FORMAT` when `L = 0`, `MAXOUT = L` (40_control.md R152). -/
def unpadChecks (s : State) : Checks := { badLength := srcLength s == 0, target := .output (srcLength s) }

/-- `UNPAD` (41_padding.md R173). -/
def execUnpad (s : State) : Host.Outcome State Fault Refusal :=
  .next (runCommand (unpadChecks s) (unpadBytes s.params.unpadZero (sourceBytes s)) s)

end Sys2Proof.Machine
end

