-- ==== Sys2Proof/Machine/Envelope.lean ====
section
/-! DEFINITION. The envelope framer: the layout, `SEAL` and `OPEN` (44_envelope.md R260, R265, R266). -/

namespace Sys2Proof.Machine

/-- `header ‖ iv ‖ ciphertext`, the part that is signed, for a plaintext `p` (44_envelope.md R260, R265 steps 1 to 4). -/
def sealMessage (K iv p : Bytes) : Bytes := repeated Config.hdrLen 0x00 ++ iv ++ cbcEnc K iv (padBytes p)

/-- The envelope `message ‖ signature` (44_envelope.md R265 steps 5 and 6). -/
def sealEnvelope (K H iv p : Bytes) : Bytes := sealMessage K iv p ++ hmacSha1 H (sealMessage K iv p)

/-- The wire form: hex text if `HEX = 1`, else the binary envelope (44_envelope.md R265 step 7). -/
def wireForm (hex : Bool) (env : Bytes) : Bytes := if hex then hexEncode env else env

/-- The body of `SEAL` with the IV `iv` (44_envelope.md R265). -/
def sealBody (hex : Bool) (s : State) (iv : Bytes) : Except Failure Bytes :=
  .ok (wireForm hex (sealEnvelope (aesKeyBytes s) (hmacKeyBytes s) iv (sourceBytes s)))

/-- `E`: 2 bytes of output for each byte of the envelope if `HEX = 1`, else 1 (40_control.md R152). -/
def wireFactor (hex : Bool) : Nat := if hex then 2 else 1

/-- The stages of `SEAL`: `MAXOUT = E·(41 + L + 16 - (L mod 16))` (40_control.md R152). -/
def sealChecks (hex injected : Bool) (s : State) : Checks :=
  { injected := injected
    keyed := true
    target := .output (wireFactor hex * (Config.minEnv + srcLength s + padLength (srcLength s))) }

/-- `SEAL` with the IV from the entropy source (44_envelope.md R265, 60_exceptions.md R306). -/
def sealDrawn (hex : Bool) (s : State) : State := runDrawingCommand (sealChecks hex false s) (sealBody hex s) s

/-- `SEAL` with the injected IV `IVREG` (44_envelope.md R265). -/
def sealInjected (hex : Bool) (s : State) : State := runCommand (sealChecks hex true s) (sealBody hex s (ivBytes s)) s

/-- `SEAL`, word `0x00000050` (44_envelope.md R265). -/
def execSealBin (s : State) : Host.Outcome State Fault Refusal := .next (sealDrawn false s)

/-- `SEAL.HEX`, word `0x00000150` (44_envelope.md R265). -/
def execSealHex (s : State) : Host.Outcome State Fault Refusal := .next (sealDrawn true s)

/-- `SEAL.INJ`, word `0x00000250` (44_envelope.md R265). -/
def execSealInj (s : State) : Host.Outcome State Fault Refusal := .next (sealInjected false s)

/-- `SEAL.HEX.INJ`, word `0x00000350` (44_envelope.md R265). -/
def execSealHexInj (s : State) : Host.Outcome State Fault Refusal := .next (sealInjected true s)

/-- Steps 2 to 7 of `OPEN` on a decoded envelope of at least 41 bytes (44_envelope.md R266): the signature is checked
before anything is decrypted, and the header is not read. -/
def openEnvelope (z : UnpadZero) (K H env : Bytes) : Except Failure Bytes :=
  let message := env.take (env.length - Config.tagLen)
  let signature := env.drop (env.length - Config.tagLen)
  if !ctEq signature (hmacSha1 H message) then .error .auth
  else
    let iv := (message.drop Config.hdrLen).take Config.ivLen
    let ct := message.drop (Config.hdrLen + Config.ivLen)
    if ct.length % Config.blk ≠ 0 then .error .format
    else unpadBytes z (cbcDec K iv ct)

/-- Step 1 of `OPEN`: hex text if `HEX = 1`, else the binary envelope as it is (44_envelope.md R266). -/
def readWire (hex : Bool) (t : Bytes) : Except Failure Bytes := if hex then hexDecode t else .ok t

/-- The body of `OPEN` (44_envelope.md R266). -/
def openBody (hex : Bool) (s : State) : Except Failure Bytes :=
  match readWire hex (sourceBytes s) with
  | .error e => .error e
  | .ok env => openEnvelope s.params.unpadZero (aesKeyBytes s) (hmacKeyBytes s) env

/-- `D`, the length of the decoded envelope (40_control.md R152). -/
def envelopeLength (hex : Bool) (s : State) : Nat := srcLength s / wireFactor hex

/-- The stages of `OPEN`: `E_FORMAT` when `HEX = 1` and `L` is odd or `D < 41`, `MAXOUT = D - 41` (40_control.md R152). -/
def openChecks (hex : Bool) (s : State) : Checks :=
  { keyed := true
    badLength := (hex && srcLength s % 2 != 0) || decide (envelopeLength hex s < Config.minEnv)
    target := .output (envelopeLength hex s - Config.minEnv) }

/-- `OPEN`, word `0x00000051` (44_envelope.md R266). -/
def execOpenBin (s : State) : Host.Outcome State Fault Refusal :=
  .next (runCommand (openChecks false s) (openBody false s) s)

/-- `OPEN.HEX`, word `0x00000151` (44_envelope.md R266). -/
def execOpenHex (s : State) : Host.Outcome State Fault Refusal :=
  .next (runCommand (openChecks true s) (openBody true s) s)

end Sys2Proof.Machine
end

