-- ==== Sys2Proof/Machine/Dispatch.lean ====
section
/-! DEFINITION. One arm per command: the command's own meaning (`Execute` and `Complete`, 40_control.md R150 to R152). -/

namespace Sys2Proof.Machine

def exec (i : Instr) (s : State) : Host.Outcome State Fault Refusal :=
  match i with
  | .nop => Sys2Proof.Machine.execNop s
  | .keyCommit => Sys2Proof.Machine.execKeyCommit s
  | .keyClear => Sys2Proof.Machine.execKeyClear s
  | .pad => Sys2Proof.Machine.execPad s
  | .unpad => Sys2Proof.Machine.execUnpad s
  | .aesCbcEnc => Sys2Proof.Machine.execAesCbcEnc s
  | .aesCbcDec => Sys2Proof.Machine.execAesCbcDec s
  | .hmacGen => Sys2Proof.Machine.execHmacGen s
  | .hmacVerify => Sys2Proof.Machine.execHmacVerify s
  | .hexEnc => Sys2Proof.Machine.execHexEnc s
  | .hexDec => Sys2Proof.Machine.execHexDec s
  | .sealBin => Sys2Proof.Machine.execSealBin s
  | .sealHex => Sys2Proof.Machine.execSealHex s
  | .sealInj => Sys2Proof.Machine.execSealInj s
  | .sealHexInj => Sys2Proof.Machine.execSealHexInj s
  | .openBin => Sys2Proof.Machine.execOpenBin s
  | .openHex => Sys2Proof.Machine.execOpenHex s

end Sys2Proof.Machine
end

