-- ==== Sys2Proof/Machine/Step.lean ====
section
/-! DEFINITION. One step of the machine: the engine's step (40_control.md R150), a host access (20_memory.md R89) or a
reset (70_reset_and_hazards.md R340), interleaved as `State.turns` says (10_state.md R30). -/

namespace Sys2Proof.Machine

/-- The engine's step on the command word it has latched (40_control.md R150): an illegal word ends with `E_CMD` through
the normal completion (30_encoding.md R124). -/
def engineStep (s : State) : Host.Outcome State Fault Refusal :=
  match decode s.curcmd with
  | .ok i => exec i s
  | .error _ => .next (complete (.error .cmd) s)

/-- The engine's turn: its step is enabled exactly when `BUSY = 1` (40_control.md R150); else it does nothing
(60_exceptions.md R321). -/
def engineTurn (s : State) : Host.Outcome State Fault Refusal := if s.busy then engineStep s else .next s

/-- One step of the machine. With no turn left from outside, the engine moves (70_reset_and_hazards.md R352). DESIGN CHOICE,
unsafe (log entry 2). -/
def step (s : State) : Host.Outcome State Fault Refusal :=
  match s.turns with
  | [] => engineTurn s
  | .engine :: ts => engineTurn { s with turns := ts }
  | .host a :: ts => .next (hostAccess a { s with turns := ts })
  | .rst :: ts => .next (hardReset { s with turns := ts })

/-- The engine moves next: nothing to do when no outside turn is waiting. -/
def engineFirst (ts : List Turn) : List Turn :=
  match ts with
  | [] => []
  | t :: ts => .engine :: t :: ts

/-- The state in which the next step runs the command whose word is `w`: the host's accepted `CMD` write of that word
(10_state.md R38) has just happened, and the engine moves next. DESIGN CHOICE, safe (log entry 3). -/
def State.withFetchWord (s : State) (nbits w : Nat) : State :=
  { acceptCommand (BitVec.ofNat 32 (w % 2 ^ nbits)) s with turns := engineFirst s.turns }

end Sys2Proof.Machine
end

