-- ==== Sys2Proof/Machine/HostProgram.lean ====
section
/-! DEFINITION. Host programs (30_encoding.md R128 to R130): the mnemonics, the written bus accesses and the expansions of
the pseudo-instructions, each as the turns of the host that it stands for. -/

namespace Sys2Proof.Machine

/-- The command a written mnemonic names; mnemonics are case-insensitive (30_encoding.md R128). -/
def commandOfMnemonic (m : String) : Option Instr :=
  Instr.all.find? fun i => i.mnemonic.toList == m.toList.map Char.toUpper

/-- `W reg, imm32` (R129). -/
def hostWrite (r : Reg) (v : Word) : Turn := .host (.write .word (BitVec.ofNat 17 r.offset) v)

/-- `R reg` (R129). -/
def hostRead (r : Reg) : Turn := .host (.read .word (BitVec.ofNat 17 r.offset))

/-- `WB d, imm8`, `WH d, imm16`, `WW d, imm32` (R129). -/
def dmemWrite (w : Width) (d : Nat) (v : Word) : Turn := .host (.write w (BitVec.ofNat 17 (apertureBase + d)) v)

/-- `RB d`, `RH d`, `RW d` (R129). -/
def dmemRead (w : Width) (d : Nat) : Turn := .host (.read w (BitVec.ofNat 17 (apertureBase + d)))

/-- `CMD m` (R130). -/
def pseudoCmd (i : Instr) : List Turn := [hostWrite .cmd (encode i)]

/-- `WAIT` (R130), in the interleaving in which the engine moves after `polls` reads of `STATUS` that see `BUSY = 1`. -/
def pseudoWait (polls : Nat) : List Turn :=
  List.replicate polls (hostRead .status) ++ [Turn.engine, hostRead .status]

/-- `RUN m` (R130). -/
def pseudoRun (i : Instr) (polls : Nat) : List Turn := pseudoCmd i ++ pseudoWait polls

/-- Writes of the words of `s` to consecutive registers, `LE32(s[4k:4k+4])` to the register number `k`. -/
def writeWords (r : Nat → Reg) (s : Bytes) : List Turn :=
  (List.range (s.length / 4)).map fun k => hostWrite (r k) (le32 ((s.drop (4 * k)).take 4))

/-- `FILL d, s` for `d mod 4 = 0` (R130): the whole words, then the remaining bytes. -/
def pseudoFill (d : Nat) (s : Bytes) : List Turn :=
  ((List.range (s.length / 4)).map fun k => dmemWrite .word (d + 4 * k) (le32 ((s.drop (4 * k)).take 4))) ++
    ((List.range' (4 * (s.length / 4)) (s.length % 4)).map fun j => dmemWrite .byte (d + j) ((s.getD j 0).setWidth 32))

/-- `LDKEY s` for a key of 16 or 32 bytes (R130). -/
def pseudoLoadKey (s : Bytes) : List Turn := writeWords (fun k => .aesKey (Fin.ofNat 8 k)) s

/-- `LDHKEY s` for a key of at most 64 bytes (R130): `s` with zero bytes to a multiple of 4, then the length. -/
def pseudoLoadHmacKey (s : Bytes) : List Turn :=
  writeWords (fun k => .hkey (Fin.ofNat 16 k)) (s ++ repeated ((4 - s.length % 4) % 4) 0x00) ++
    [hostWrite .hkeyLen (BitVec.ofNat 32 s.length)]

/-- `LDIV s` for a 16-byte string (R130). -/
def pseudoLoadIv (s : Bytes) : List Turn := writeWords (fun k => .iv (Fin.ofNat 4 k)) s

/-- `SETCFG bits` (R130). -/
def pseudoSetConfig (bits : Nat) : List Turn := [hostWrite .keycfg (BitVec.ofNat 32 (0x10000 ||| bits))]

end Sys2Proof.Machine
end

