-- ==== Sys2Proof/Safety.lean ====
section
/-! DEFINITION. The terms in which the claims speak: the invariant of the machine, the stages of 40_control.md R152 read
command by command, and what it means that a command ends with `E_OK` or with an error (R151, 20_memory.md R93). -/

namespace Sys2Proof.Machine

/-- The invariant of the machine. Its clauses: the parameters are legal (00_scope.md R7); the data memory is in canonical
form and lies inside `DMEM_BYTES` (10_state.md R54); `BUSY` and `DONE` never hold together (R37), and while busy `ERR` and
`OUT_LEN` are 0 (20_memory.md R87); a locked injection is disabled (10_state.md R36); a committed key is legal
(42_cipher.md R205); and a command writes no more bytes than the memory has (10_state.md R43). -/
abbrev State.Inv (s : State) : Prop :=
  s.params.Legal ∧ s.dmem.wf = true ∧ (∀ c ∈ s.dmem, c.1 < s.params.dmemBytes) ∧
  (s.busy = true → s.done = false ∧ s.err = none ∧ s.outLen = 0) ∧
  (s.ivinjLock = true → s.ivinjEn = false) ∧
  (s.keyValid = true → keyConfigLegal s = true) ∧
  s.outLen.toNat ≤ s.params.dmemBytes

/-- The command reads a source region (30_encoding.md R122): every command but the three of 40_control.md. -/
def readsSource : Instr → Bool
  | .nop | .keyCommit | .keyClear => false
  | .pad | .unpad | .aesCbcEnc | .aesCbcDec | .hmacGen | .hmacVerify | .hexEnc | .hexDec => true
  | .sealBin | .sealHex | .sealInj | .sealHexInj | .openBin | .openHex => true

/-- `NeedsKey(cmd)` (40_control.md R152 stage S3). -/
def needsKey : Instr → Bool
  | .nop | .keyCommit | .keyClear | .pad | .unpad | .hexEnc | .hexDec => false
  | .aesCbcEnc | .aesCbcDec | .hmacGen | .hmacVerify => true
  | .sealBin | .sealHex | .sealInj | .sealHexInj | .openBin | .openHex => true

/-- `SEAL` with `IVSRC = 1` (stage S2). -/
def usesInjectedIv : Instr → Bool
  | .sealInj | .sealHexInj => true
  | .nop | .keyCommit | .keyClear | .pad | .unpad | .aesCbcEnc | .aesCbcDec | .hmacGen | .hmacVerify | .hexEnc => false
  | .hexDec | .sealBin | .sealHex | .openBin | .openHex => false

/-- The length check of stage S5 raises `E_FORMAT` for the source length `L` (the second table of 40_control.md R152). -/
def badLength (i : Instr) (L : Nat) : Prop :=
  match i with
  | .unpad => L = 0
  | .aesCbcEnc | .aesCbcDec => L % 16 ≠ 0
  | .hexDec => L % 2 ≠ 0
  | .openBin => L < 41
  | .openHex => L % 2 ≠ 0 ∨ L / 2 < 41
  | .nop | .keyCommit | .keyClear | .pad | .hmacGen | .hmacVerify | .hexEnc => False
  | .sealBin | .sealHex | .sealInj | .sealHexInj => False

/-- `MAXOUT` for the source length `L` (the second table of 40_control.md R152); `none`: the command writes no output. -/
def maxOut (i : Instr) (L : Nat) : Option Nat :=
  match i with
  | .nop | .keyCommit | .keyClear | .hmacVerify => none
  | .pad => some (L + 16 - L % 16)
  | .unpad | .aesCbcEnc | .aesCbcDec => some L
  | .hmacGen => some 20
  | .hexEnc => some (2 * L)
  | .hexDec => some (L / 2)
  | .sealBin | .sealInj => some (41 + L + 16 - L % 16)
  | .sealHex | .sealHexInj => some (2 * (41 + L + 16 - L % 16))
  | .openBin => some (L - 41)
  | .openHex => some (L / 2 - 41)

/-- Stage S2 raises: `E_CMD`. It reads `IVINJ_EN` through the lock. DEDUCED, safe (log entry 11). -/
def failsS2 (i : Instr) (s : State) : Prop := usesInjectedIv i = true ∧ injectionEnabled s = false

/-- Stage S3 raises: `E_NOKEY`. -/
def failsS3 (i : Instr) (s : State) : Prop := needsKey i = true ∧ s.keyValid = false

/-- Stage S4 raises: `E_RANGE`. -/
def failsS4 (i : Instr) (s : State) : Prop :=
  readsSource i = true ∧ s.params.dmemBytes < s.srcAddr.toNat + s.srcLen.toNat

/-- Stage S5 raises: `E_FORMAT`. -/
def failsS5 (i : Instr) (s : State) : Prop := badLength i s.srcLen.toNat

/-- Stage S6 raises: `E_RANGE`, of the output region or of the tag region of `HMAC_VERIFY`. -/
def failsS6 (i : Instr) (s : State) : Prop :=
  (∃ m, maxOut i s.srcLen.toNat = some m ∧ s.params.dmemBytes < s.dstAddr.toNat + m) ∨
  (i = .hmacVerify ∧ s.params.dmemBytes < s.auxAddr.toNat + 20)

/-- Stage S7 raises: `E_OVERLAP`. -/
def failsS7 (i : Instr) (s : State) : Prop :=
  ∃ m, maxOut i s.srcLen.toNat = some m ∧ 0 < s.srcLen.toNat ∧ 0 < m ∧
    s.srcAddr.toNat < s.dstAddr.toNat + m ∧ s.dstAddr.toNat < s.srcAddr.toNat + s.srcLen.toNat

/-- No stage from S2 to S7 raises. -/
def PassesStages (i : Instr) (s : State) : Prop :=
  ¬ failsS2 i s ∧ ¬ failsS3 i s ∧ ¬ failsS4 i s ∧ ¬ failsS5 i s ∧ ¬ failsS6 i s ∧ ¬ failsS7 i s

/-- The first stage from S2 to S7 that raises gives the code `e` (40_control.md R152). -/
def StageRaises (i : Instr) (s : State) (e : Failure) : Prop :=
  (failsS2 i s ∧ e = .cmd) ∨
  (¬ failsS2 i s ∧ failsS3 i s ∧ e = .noKey) ∨
  (¬ failsS2 i s ∧ ¬ failsS3 i s ∧ failsS4 i s ∧ e = .range) ∨
  (¬ failsS2 i s ∧ ¬ failsS3 i s ∧ ¬ failsS4 i s ∧ failsS5 i s ∧ e = .format) ∨
  (¬ failsS2 i s ∧ ¬ failsS3 i s ∧ ¬ failsS4 i s ∧ ¬ failsS5 i s ∧ failsS6 i s ∧ e = .range) ∨
  (¬ failsS2 i s ∧ ¬ failsS3 i s ∧ ¬ failsS4 i s ∧ ¬ failsS5 i s ∧ ¬ failsS6 i s ∧ failsS7 i s ∧ e = .overlap)

/-- The key register file holds the same in both states (10_state.md R44 to R47). -/
def SameKeyRegisters (s t : State) : Prop :=
  t.aesKey = s.aesKey ∧ t.keySize = s.keySize ∧ t.keyMode = s.keyMode ∧ t.hkeyLen = s.hkeyLen ∧ t.hkey = s.hkey

/-- The registers that no command writes hold the same in both states: the parameters, `CTRL`, `ACCERR`, `CURCMD`, the
operand registers and the IV (10_state.md R31, R48). -/
def SameOperands (s t : State) : Prop :=
  t.params = s.params ∧ t.irqEn = s.irqEn ∧ t.ivinjEn = s.ivinjEn ∧ t.ivinjLock = s.ivinjLock ∧ t.accErr = s.accErr ∧
  t.curcmd = s.curcmd ∧ t.srcAddr = s.srcAddr ∧ t.srcLen = s.srcLen ∧ t.dstAddr = s.dstAddr ∧ t.auxAddr = s.auxAddr ∧
  t.iv = s.iv

/-- What lies outside the engine is the same in both states: the turns to come, the host's last reply, the resets. -/
def SameOutside (s t : State) : Prop := t.turns = s.turns ∧ t.rdata = s.rdata ∧ t.resets = s.resets

/-- No entropy draw was taken between the two states (60_exceptions.md R306). -/
def NoDraw (s t : State) : Prop := t.entropy = s.entropy ∧ t.draws = s.draws ∧ t.rngFail = s.rngFail

/-- Everything that no command but the key commands and an entropy `SEAL` may change is unchanged. -/
def Unchanged (s t : State) : Prop :=
  SameKeyRegisters s t ∧ SameOperands s t ∧ SameOutside s t ∧ NoDraw s t ∧ t.keyValid = s.keyValid

/-- Every byte of the data memory outside the `n` bytes from `a` on reads as before. -/
def SameBytesOutside (s t : State) (a n : Nat) : Prop := ∀ b, ¬ (a ≤ b ∧ b < a + n) → t.byteAt b = s.byteAt b

/-- Every byte of the data memory reads as before. -/
def SameBytes (s t : State) : Prop := ∀ b, t.byteAt b = s.byteAt b

/-- The bytes of `out` stand in the data memory from `a` on. -/
def HoldsAt (t : State) (a : Nat) (out : Bytes) : Prop := ∀ k (h : k < out.length), t.byteAt (a + k) = out[k]

/-- The completion with `E_OK` and the output `out` (40_control.md R151, 20_memory.md R93): `out` stands at `DST_ADDR`,
every other byte is unchanged, `OUT_LEN` is its length. -/
def EndsOk (s t : State) (out : Bytes) : Prop :=
  t.err = none ∧ t.busy = false ∧ t.done = true ∧ t.outLen.toNat = out.length ∧
  HoldsAt t s.dstAddr.toNat out ∧ SameBytesOutside s t s.dstAddr.toNat out.length

/-- The completion with the error code `e` (40_control.md R151, 20_memory.md R93): no byte of the data memory is written
and `OUT_LEN` is 0. -/
def EndsWith (s t : State) (e : Failure) : Prop :=
  t.err = some e ∧ t.busy = false ∧ t.done = true ∧ t.outLen = 0 ∧ SameBytes s t

/-- The engine moves in this step: it has the turn, or no turn from outside is left. -/
def engineHasTurn (s : State) : Bool :=
  match s.turns with
  | [] => true
  | .engine :: _ => true
  | .host _ :: _ => false
  | .rst :: _ => false

/-- The next step is an asserted `rst`. -/
def resetHasTurn (s : State) : Bool :=
  match s.turns with
  | .rst :: _ => true
  | [] => false
  | .engine :: _ => false
  | .host _ :: _ => false

end Sys2Proof.Machine
end

