-- ==== Sys2Proof/Certificates/Slice0/Obligations.lean ====
section
/-! DEFINITION. The statements about the model, for the provers. -/

open Sys2Proof Sys2Proof.Machine

/-! ## Encoding -/

/-- Decode and encode agree on every command word: a word decodes to a command exactly when it is that command's word, so
the legal words decode to distinct commands (30_encoding.md R123, R126). -/
def Obligations.DecodeAndEncodeAgree : Prop :=
  ∀ (w : Word) (i : Instr), decode w = .ok i ↔ encode i = w

/-- Which words are legal; every word is accepted by an idle engine; the engine's step on an illegal word ends with `E_CMD`
and no other effect, and so does the machine's step when the engine moves, with no turn left or with its turn next; no word
but 0 executes as `NOP` (30_encoding.md R124). Which step is the engine's is the model's choice, log entry 2. -/
def Obligations.IllegalWordsEndWithCommandError : Prop :=
  (∀ w : Word, (∃ i, decode w = .ok i) ↔
    (w.extractLsb' 0 8 ∈ assignedOps ∧ w.extractLsb' 10 22 = 0 ∧
      (w.getLsbD 8 = true → w.extractLsb' 0 8 = 0x50 ∨ w.extractLsb' 0 8 = 0x51) ∧
      (w.getLsbD 9 = true → w.extractLsb' 0 8 = 0x50))) ∧
  (∀ (w : Word) (s : State), s.busy = false →
    (regWrite .cmd w s).curcmd = w ∧ (regWrite .cmd w s).busy = true ∧ (regWrite .cmd w s).accErr = s.accErr) ∧
  (∀ s : State, (¬ ∃ i, decode s.curcmd = .ok i) →
    ∃ t, engineStep s = .next t ∧ EndsWith s t .cmd ∧ Unchanged s t) ∧
  (∀ s : State, s.busy = true → s.turns = [] → (¬ ∃ i, decode s.curcmd = .ok i) →
    ∃ t, step s = .next t ∧ EndsWith s t .cmd ∧ Unchanged s t) ∧
  (∀ (s : State) (ts : List Turn), s.busy = true → s.turns = .engine :: ts → (¬ ∃ i, decode s.curcmd = .ok i) →
    ∃ t, step s = .next t ∧ EndsWith s t .cmd ∧ Unchanged { s with turns := ts } t) ∧
  (∀ w : Word, decode w = .ok .nop ↔ w = 0)

/-- Command words written out bit by bit from the diagram of R121 and the table of R123 decode to their commands. -/
def Obligations.WrittenWordsDecode : Prop :=
  decode 0b00000000000000000000000000000000 = .ok .nop ∧
  decode 0b00000000000000000000000000000001 = .ok .keyCommit ∧
  decode 0b00000000000000000000000000010001 = .ok .unpad ∧
  decode 0b00000000000000000000000000100000 = .ok .aesCbcEnc ∧
  decode 0b00000000000000000000000000110001 = .ok .hmacVerify ∧
  decode 0b00000000000000000000000001000001 = .ok .hexDec ∧
  decode 0b00000000000000000000001101010000 = .ok .sealHexInj ∧
  decode 0b00000000000000000000000101010001 = .ok .openHex

/-! ## The step -/

/-- A step runs the decoded command: when the engine moves and is busy, the step is `exec` of the command that `CURCMD`
decodes to, on the state with the engine's turn taken (40_control.md R150). Who moves next is the model's choice, log
entry 2. -/
def Obligations.StepRunsTheDecodedCommand : Prop :=
  (∀ (s : State) (i : Instr), s.busy = true → decode s.curcmd = .ok i → s.turns = [] → step s = exec i s) ∧
  (∀ (s : State) (i : Instr) (ts : List Turn), s.busy = true → decode s.curcmd = .ok i → s.turns = .engine :: ts →
    step s = exec i { s with turns := ts }) ∧
  (∀ s : State, s.busy = false → engineHasTurn s = true → step s = .next { s with turns := s.turns.tail }) ∧
  (∀ (s : State) (a : Access) (ts : List Turn), s.turns = .host a :: ts →
    step s = .next (hostAccess a { s with turns := ts }))

/-- The state made by `withFetchWord` runs exactly the command of that word next (40_control.md R150; what `withFetchWord`
stands for is the model's choice, log entry 3). -/
def Obligations.FetchWordRunsNext : Prop :=
  ∀ (s : State) (i : Instr),
    step (s.withFetchWord 32 (encode i).toNat) = exec i (acceptCommand (encode i) s)

/-- Whatever word was accepted, the engine's step completes the command: it never hangs, and `BUSY` ends 0 and `DONE` 1; a
command that ends with an error has `OUT_LEN` 0 and leaves every byte of the data memory (40_control.md R150, R151). -/
def Obligations.EveryAcceptedCommandCompletes : Prop :=
  ∀ s : State, s.busy = true → engineHasTurn s = true →
    ∃ t, step s = .next t ∧ t.busy = false ∧ t.done = true ∧ (t.err ≠ none → t.outLen = 0 ∧ SameBytes s t)

/-- Every step keeps the invariant of the machine, and the parameters. -/
def Obligations.EveryStepKeepsTheInvariant : Prop :=
  ∀ s t : State, s.Inv → step s = .next t → t.Inv ∧ t.params = s.params

/-- The state after reset meets the invariant, for every legal choice of the parameters. -/
def Obligations.ResetMeetsTheInvariant : Prop :=
  State.reset.Inv ∧ ∀ (p : Params) (n : Nat), p.Legal → (State.resetWith p n).Inv

/-! ## The check stages -/

/-- The first stage from S2 to S7 that raises decides the code of every command, and nothing else happens
(40_control.md R152; 30_encoding.md R125; 60_exceptions.md R301, R304, R305, R307, R313). That S2 raises while `IVINJ_LOCK`
is 1, whatever the stored enable bit is, is deduced, log entry 11. -/
def Obligations.FirstFailingStageDecidesTheCode : Prop :=
  ∀ (i : Instr) (s : State) (e : Failure), StageRaises i s e →
    ∃ t, exec i s = .next t ∧ EndsWith s t e ∧ Unchanged s t

/-! ## The key register commands -/

/-- `NOP` completes without effect (40_control.md R155). -/
def Obligations.NopCompletesWithoutEffect : Prop :=
  ∀ s : State, ∃ t, exec .nop s = .next t ∧ t.err = none ∧ t.outLen = 0 ∧ t.busy = false ∧ t.done = true ∧
    SameBytes s t ∧ Unchanged s t

/-- `KEY_COMMIT` of a legal configuration makes the key valid and changes nothing else (40_control.md R153). -/
def Obligations.KeyCommitValidatesALegalKey : Prop :=
  ∀ s : State, s.keyValid = false → s.keyMode = 0x01 → (s.keySize = 128 ∨ s.keySize = 256) → s.hkeyLen.toNat ≤ 64 →
    ∃ t, exec .keyCommit s = .next t ∧ t.keyValid = true ∧ t.err = none ∧ t.outLen = 0 ∧ t.busy = false ∧
      t.done = true ∧ SameBytes s t ∧ SameKeyRegisters s t ∧ SameOperands s t ∧ SameOutside s t ∧ NoDraw s t

/-- `KEY_COMMIT` of an illegal configuration ends with `E_CONFIG`, and of a committed key changes nothing
(40_control.md R153, 60_exceptions.md R303). -/
def Obligations.KeyCommitRefusesAnIllegalKey : Prop :=
  (∀ s : State, s.keyValid = false → (s.keyMode ≠ 0x01 ∨ (s.keySize ≠ 128 ∧ s.keySize ≠ 256) ∨ 64 < s.hkeyLen.toNat) →
    ∃ t, exec .keyCommit s = .next t ∧ EndsWith s t .config ∧ Unchanged s t) ∧
  (∀ s : State, s.keyValid = true →
    ∃ t, exec .keyCommit s = .next t ∧ t.err = none ∧ t.outLen = 0 ∧ SameBytes s t ∧ Unchanged s t)

/-- `E_CONFIG` is raised only by `KEY_COMMIT`, and there exactly when the mode is not CBC, the AES key size is not 128 or
256, or the HMAC key is longer than 64 bytes (60_exceptions.md R303, 40_control.md R153). -/
def Obligations.OnlyKeyCommitRaisesConfigError : Prop :=
  ∀ (i : Instr) (s t : State), exec i s = .next t →
    (t.err = some .config ↔ i = .keyCommit ∧ s.keyValid = false ∧
      (s.keyMode ≠ 0x01 ∨ (s.keySize ≠ 128 ∧ s.keySize ≠ 256) ∨ 64 < s.hkeyLen.toNat))

/-- `KEY_CLEAR` erases the key register file, committed or not, and changes nothing else (40_control.md R154). -/
def Obligations.KeyClearErasesTheKeyFile : Prop :=
  ∀ s : State, ∃ t, exec .keyClear s = .next t ∧ t.keyValid = false ∧
    (∀ k : Fin 8, t.aesKey[k] = 0) ∧ (∀ k : Fin 16, t.hkey[k] = 0) ∧ keycfgWord t = 0 ∧ hkeyLenWord t = 0 ∧
    t.err = none ∧ t.outLen = 0 ∧ t.busy = false ∧ t.done = true ∧
    SameBytes s t ∧ SameOperands s t ∧ SameOutside s t ∧ NoDraw s t

/-- The key write lock (10_state.md R50): while a key is committed, writes to the key registers are dropped and set
`ACCERR`; while none is, they take effect in an idle engine; and until the next reset only `KEY_CLEAR` ends the commitment,
so that a committed key stays as it is. -/
def Obligations.CommittedKeyIsLocked : Prop :=
  (∀ (s : State) (v : Word) (j : Fin 8) (k : Fin 16), s.keyValid = true →
    regWrite (.aesKey j) v s = { s with accErr := true } ∧ regWrite .keycfg v s = { s with accErr := true } ∧
    regWrite .hkeyLen v s = { s with accErr := true } ∧ regWrite (.hkey k) v s = { s with accErr := true }) ∧
  (∀ (s : State) (v : Word) (j : Fin 8) (k : Fin 16), s.busy = false → s.keyValid = false →
    regWrite (.aesKey j) v s = { s with aesKey := s.aesKey.set j v } ∧
    regWrite .keycfg v s = { s with keySize := v.extractLsb' 0 16, keyMode := v.extractLsb' 16 8 } ∧
    regWrite .hkeyLen v s = { s with hkeyLen := v.extractLsb' 0 16 } ∧
    regWrite (.hkey k) v s = { s with hkey := s.hkey.set k v }) ∧
  (∀ s t : State, s.keyValid = true → step s = .next t → resetHasTurn s = false →
    (t.keyValid = true ∧ SameKeyRegisters s t) ∨
    (t.keyValid = false ∧ engineHasTurn s = true ∧ s.busy = true ∧ s.curcmd = encode .keyClear))

/-! ## The padder -/

/-- `Pad(d)` appends `n = 16 - (len(d) mod 16)` bytes of value `n`, so that the length is a multiple of 16 and at least 16
(41_padding.md R170). -/
def Obligations.PadAppendsItsLength : Prop :=
  ∀ d : Bytes, ∃ n : Nat, n = 16 - d.length % 16 ∧ 1 ≤ n ∧ n ≤ 16 ∧
    padBytes d = d ++ List.replicate n (BitVec.ofNat 8 n) ∧ (padBytes d).length % 16 = 0 ∧ 16 ≤ (padBytes d).length

/-- `Unpad(Pad(d)) = d` for every `d`, whatever `UNPAD_ZERO` is (41_padding.md R172). -/
def Obligations.UnpadInvertsPad : Prop :=
  ∀ (z : UnpadZero) (d : Bytes), unpadBytes z (padBytes d) = .ok d

/-- `PAD` writes the padded source at `DST_ADDR`, `OUT_LEN = L + n`, and changes nothing else (41_padding.md R171). -/
def Obligations.PadWritesThePaddedSource : Prop :=
  ∀ s : State, s.params.Legal → PassesStages .pad s →
    ∃ t, exec .pad s = .next t ∧ EndsOk s t (padBytes (sourceBytes s)) ∧ Unchanged s t ∧
      t.outLen.toNat = s.srcLen.toNat + (16 - s.srcLen.toNat % 16)

/-- `UNPAD` removes as many bytes as the last byte says; a last byte 0 follows `UNPAD_ZERO` (41_padding.md R172, R173). -/
def Obligations.UnpadRemovesThePadBytes : Prop :=
  ∀ (s : State) (n : Byte), s.params.Legal → PassesStages .unpad s →
    (sourceBytes s).getLast? = some n → n.toNat ≤ s.srcLen.toNat →
    ∃ t, exec .unpad s = .next t ∧ Unchanged s t ∧
      EndsOk s t (if n = 0 ∧ s.params.unpadZero = .empty then []
        else (sourceBytes s).take (s.srcLen.toNat - n.toNat))

/-- `UNPAD` of a source shorter than its last byte says ends with `E_FORMAT` (41_padding.md R172, R173). -/
def Obligations.UnpadRefusesAnOverlongPad : Prop :=
  ∀ (s : State) (n : Byte), PassesStages .unpad s → (sourceBytes s).getLast? = some n → s.srcLen.toNat < n.toNat →
    ∃ t, exec .unpad s = .next t ∧ EndsWith s t .format ∧ Unchanged s t

/-! ## The cipher -/

/-- The S-box is the affine map of the multiplicative inverse in GF(2^8), and the inverse S-box is its inverse permutation
(42_cipher.md R191 to R193). -/
def Obligations.SboxIsTheAffineInverse : Prop :=
  sbox 0 = sboxAffine 0 ∧ (∀ b : Byte, b ≠ 0 → ∃ x : Byte, gmul b x = 1 ∧ sbox b = sboxAffine x) ∧
  (∀ b : Byte, invSbox (sbox b) = b ∧ sbox (invSbox b) = b)

/-- The AES check values of FIPS 197 Appendix C (42_cipher.md R201). -/
def Obligations.AesCheckValues : Prop :=
  aesEnc [0x00, 0x01, 0x02, 0x03, 0x04, 0x05, 0x06, 0x07, 0x08, 0x09, 0x0a, 0x0b, 0x0c, 0x0d, 0x0e, 0x0f]
      [0x00, 0x11, 0x22, 0x33, 0x44, 0x55, 0x66, 0x77, 0x88, 0x99, 0xaa, 0xbb, 0xcc, 0xdd, 0xee, 0xff] =
    [0x69, 0xc4, 0xe0, 0xd8, 0x6a, 0x7b, 0x04, 0x30, 0xd8, 0xcd, 0xb7, 0x80, 0x70, 0xb4, 0xc5, 0x5a] ∧
  aesEnc [0x00, 0x01, 0x02, 0x03, 0x04, 0x05, 0x06, 0x07, 0x08, 0x09, 0x0a, 0x0b, 0x0c, 0x0d, 0x0e, 0x0f,
      0x10, 0x11, 0x12, 0x13, 0x14, 0x15, 0x16, 0x17, 0x18, 0x19, 0x1a, 0x1b, 0x1c, 0x1d, 0x1e, 0x1f]
      [0x00, 0x11, 0x22, 0x33, 0x44, 0x55, 0x66, 0x77, 0x88, 0x99, 0xaa, 0xbb, 0xcc, 0xdd, 0xee, 0xff] =
    [0x8e, 0xa2, 0xb7, 0xca, 0x51, 0x67, 0x45, 0xbf, 0xea, 0xfc, 0x49, 0x90, 0x4b, 0x49, 0x60, 0x89]

/-- `AES_Dec(K, AES_Enc(K, b)) = b` for every key and block (42_cipher.md R200). What the functions give for a key that is
not 16 or 32 bytes is the model's choice, log entry 13. -/
def Obligations.AesDecInvertsAesEnc : Prop :=
  ∀ K b : Bytes, b.length = 16 → aesDec K (aesEnc K b) = b

/-- `CBC_Dec(K, iv, CBC_Enc(K, iv, p)) = p` for every key, IV and whole number of blocks (42_cipher.md R203). What the
functions give for a key that is not 16 or 32 bytes is the model's choice, log entry 13. -/
def Obligations.CbcDecInvertsCbcEnc : Prop :=
  ∀ K iv p : Bytes, iv.length = 16 → p.length % 16 = 0 → cbcDec K iv (cbcEnc K iv p) = p

/-- `AES_CBC_ENC` writes the CBC encryption of the source under `AESKEY` and `IVREG`, `OUT_LEN = L`, and leaves the IV
registers as they are (42_cipher.md R207, R206). CBC encryption goes block by block: the first ciphertext block is the
encryption of the first plaintext block exclusive-or the IV, and it is the IV of what follows (R202). What the functions give
for a key that is not 16 or 32 bytes, and for a `p` that is not whole blocks, is the model's choice, log entry 13. -/
def Obligations.AesCbcEncWritesTheCiphertext : Prop :=
  (∀ s : State, s.params.Legal → PassesStages .aesCbcEnc s →
    ∃ t, exec .aesCbcEnc s = .next t ∧ EndsOk s t (cbcEnc (aesKeyBytes s) (ivBytes s) (sourceBytes s)) ∧
      Unchanged s t ∧ t.outLen = s.srcLen) ∧
  (∀ K iv : Bytes, cbcEnc K iv [] = []) ∧
  (∀ K iv b p : Bytes, iv.length = 16 → b.length = 16 → ∃ c : Bytes,
    c = aesEnc K (List.zipWith (fun x y => x ^^^ y) b iv) ∧ c.length = 16 ∧ cbcEnc K iv (b ++ p) = c ++ cbcEnc K c p)

/-- `AES_CBC_DEC` writes the CBC decryption of the source under `AESKEY` and `IVREG`, `OUT_LEN = L`, and leaves the IV
registers as they are (42_cipher.md R208, R206). CBC decryption goes block by block: the first plaintext block is the
decryption of the first ciphertext block exclusive-or the IV, and that ciphertext block is the IV of what follows (R203). What
the functions give for a key that is not 16 or 32 bytes, and for a `p` that is not whole blocks, is the model's choice, log
entry 13. -/
def Obligations.AesCbcDecWritesThePlaintext : Prop :=
  (∀ s : State, s.params.Legal → PassesStages .aesCbcDec s →
    ∃ t, exec .aesCbcDec s = .next t ∧ EndsOk s t (cbcDec (aesKeyBytes s) (ivBytes s) (sourceBytes s)) ∧
      Unchanged s t ∧ t.outLen = s.srcLen) ∧
  (∀ K iv : Bytes, cbcDec K iv [] = []) ∧
  (∀ K iv b p : Bytes, iv.length = 16 → b.length = 16 →
    cbcDec K iv (b ++ p) = List.zipWith (fun x y => x ^^^ y) (aesDec K b) iv ++ cbcDec K b p)

/-! ## The MAC -/

/-- The SHA-1 check values (43_mac.md R234). -/
def Obligations.ShaCheckValues : Prop :=
  sha1 [] = [0xda, 0x39, 0xa3, 0xee, 0x5e, 0x6b, 0x4b, 0x0d, 0x32, 0x55, 0xbf, 0xef, 0x95, 0x60, 0x18, 0x90,
    0xaf, 0xd8, 0x07, 0x09] ∧
  sha1 [0x61, 0x62, 0x63] = [0xa9, 0x99, 0x3e, 0x36, 0x47, 0x06, 0x81, 0x6a, 0xba, 0x3e, 0x25, 0x71, 0x78, 0x50,
    0xc2, 0x6c, 0x9c, 0xd0, 0xd8, 0x9d]

/-- The HMAC-SHA1 check values of RFC 2202 cases 1 to 3, and of the empty key and message (43_mac.md R236). -/
def Obligations.HmacCheckValues : Prop :=
  hmacSha1 (List.replicate 20 0x0b) [0x48, 0x69, 0x20, 0x54, 0x68, 0x65, 0x72, 0x65] =
    [0xb6, 0x17, 0x31, 0x86, 0x55, 0x05, 0x72, 0x64, 0xe2, 0x8b, 0xc0, 0xb6, 0xfb, 0x37, 0x8c, 0x8e, 0xf1, 0x46,
      0xbe, 0x00] ∧
  hmacSha1 [0x4a, 0x65, 0x66, 0x65] [0x77, 0x68, 0x61, 0x74, 0x20, 0x64, 0x6f, 0x20, 0x79, 0x61, 0x20, 0x77, 0x61,
      0x6e, 0x74, 0x20, 0x66, 0x6f, 0x72, 0x20, 0x6e, 0x6f, 0x74, 0x68, 0x69, 0x6e, 0x67, 0x3f] =
    [0xef, 0xfc, 0xdf, 0x6a, 0xe5, 0xeb, 0x2f, 0xa2, 0xd2, 0x74, 0x16, 0xd5, 0xf1, 0x84, 0xdf, 0x9c, 0x25, 0x9a,
      0x7c, 0x79] ∧
  hmacSha1 (List.replicate 20 0xaa) (List.replicate 50 0xdd) =
    [0x12, 0x5d, 0x73, 0x42, 0xb9, 0xac, 0x11, 0xcd, 0x91, 0xa3, 0x9a, 0xf4, 0x8a, 0xa1, 0x7b, 0x4f, 0x63, 0xf1,
      0x75, 0xd3] ∧
  hmacSha1 [] [] = [0xfb, 0xdb, 0x1d, 0x1b, 0x18, 0xaa, 0x6c, 0x08, 0x32, 0x4b, 0x7d, 0x64, 0xb7, 0x1f, 0xb7, 0x63,
    0x70, 0x69, 0x0e, 0x1d]

/-- The constant-time comparison is exact equality on 20-byte strings (43_mac.md R237, 44_envelope.md R267 item 4). -/
def Obligations.ConstantTimeCompareIsEquality : Prop :=
  ∀ a b : Bytes, a.length = 20 → b.length = 20 → (ctEq a b = true ↔ a = b)

/-- `HMAC_GEN` writes the 20-byte HMAC of the source under `HKEY` and changes nothing else (43_mac.md R238). -/
def Obligations.HmacGenWritesTheTag : Prop :=
  ∀ s : State, s.params.Legal → PassesStages .hmacGen s →
    ∃ t, exec .hmacGen s = .next t ∧ EndsOk s t (hmacSha1 (hmacKeyBytes s) (sourceBytes s)) ∧ Unchanged s t ∧
      t.outLen = 20

/-- `HMAC_VERIFY` ends with `E_OK` when the tag is the HMAC of the source, with `E_AUTH` when it differs in any bit, and
writes nothing either way (43_mac.md R239). -/
def Obligations.HmacVerifyComparesTheTag : Prop :=
  ∀ s : State, PassesStages .hmacVerify s →
    (tagBytes s = hmacSha1 (hmacKeyBytes s) (sourceBytes s) →
      ∃ t, exec .hmacVerify s = .next t ∧ t.err = none ∧ t.outLen = 0 ∧ t.busy = false ∧ t.done = true ∧
        SameBytes s t ∧ Unchanged s t) ∧
    (tagBytes s ≠ hmacSha1 (hmacKeyBytes s) (sourceBytes s) →
      ∃ t, exec .hmacVerify s = .next t ∧ EndsWith s t .auth ∧ Unchanged s t)

/-! ## The hex codec -/

/-- `HexDec(HexEnc(d)) = d` for every `d`, and `HexEnc` gives two characters a byte (44_envelope.md R261, R262). -/
def Obligations.HexDecodeInvertsHexEncode : Prop :=
  ∀ d : Bytes, hexDecode (hexEncode d) = .ok d ∧ (hexEncode d).length = 2 * d.length

/-- `HEX_ENC` writes two uppercase digits a byte, high nibble first, and changes nothing else (44_envelope.md R261,
R263). -/
def Obligations.HexEncWritesTheDigits : Prop :=
  ∀ s : State, s.params.Legal → PassesStages .hexEnc s →
    ∃ t, exec .hexEnc s = .next t ∧ EndsOk s t (hexEncode (sourceBytes s)) ∧ Unchanged s t ∧
      t.outLen.toNat = 2 * s.srcLen.toNat ∧
      ∀ k, k < s.srcLen.toNat →
        t.byteAt (s.dstAddr.toNat + 2 * k) = hexDigit (s.byteAt (s.srcAddr.toNat + k) >>> 4) ∧
        t.byteAt (s.dstAddr.toNat + 2 * k + 1) = hexDigit (s.byteAt (s.srcAddr.toNat + k) &&& 0x0F)

/-- `HEX_DEC` of valid digits writes byte `k = 16·HexVal(t[2k]) + HexVal(t[2k+1])`, and changes nothing else
(44_envelope.md R262, R264). -/
def Obligations.HexDecWritesTheBytes : Prop :=
  ∀ s : State, s.params.Legal → PassesStages .hexDec s → (∀ c ∈ sourceBytes s, hexVal c ≠ none) →
    ∃ t d, exec .hexDec s = .next t ∧ EndsOk s t d ∧ Unchanged s t ∧ d.length = s.srcLen.toNat / 2 ∧
      ∀ k (hk : k < d.length), ∃ h l, hexVal (s.byteAt (s.srcAddr.toNat + 2 * k)) = some h ∧
        hexVal (s.byteAt (s.srcAddr.toNat + 2 * k + 1)) = some l ∧ d[k].toNat = 16 * h.toNat + l.toNat

/-- `HEX_DEC` of a source with one bad character ends with `E_FORMAT` and writes nothing (44_envelope.md R264). -/
def Obligations.HexDecRefusesABadCharacter : Prop :=
  ∀ s : State, PassesStages .hexDec s → (∃ c ∈ sourceBytes s, hexVal c = none) →
    ∃ t, exec .hexDec s = .next t ∧ EndsWith s t .format ∧ Unchanged s t

/-! ## The framer -/

/-- The layout and the length of a sealed envelope: a header of 5 zero bytes, the IV, the ciphertext, and the HMAC of all
that precedes it; `41 + 16·(L div 16 + 1)` bytes, twice that in hex (44_envelope.md R260, R267 item 2). -/
def Obligations.SealedEnvelopeLayout : Prop :=
  ∀ K H iv p : Bytes, iv.length = 16 →
    (sealEnvelope K H iv p).length = 41 + 16 * (p.length / 16 + 1) ∧
    (wireForm true (sealEnvelope K H iv p)).length = 2 * (41 + 16 * (p.length / 16 + 1)) ∧
    (sealEnvelope K H iv p).take 5 = [0, 0, 0, 0, 0] ∧
    ((sealEnvelope K H iv p).drop 5).take 16 = iv ∧
    ((sealEnvelope K H iv p).drop 21).take (16 * (p.length / 16 + 1)) = cbcEnc K iv (padBytes p) ∧
    (sealEnvelope K H iv p).drop (21 + 16 * (p.length / 16 + 1)) =
      hmacSha1 H ((sealEnvelope K H iv p).take (21 + 16 * (p.length / 16 + 1)))

/-- `SEAL.INJ` and `SEAL.HEX.INJ` write the envelope of the source under `IVREG`, binary or as uppercase hex text, whatever
`RNGFAIL` is, and change nothing else (44_envelope.md R265). -/
def Obligations.InjectedSealWritesTheEnvelope : Prop :=
  (∀ s : State, s.params.Legal → PassesStages .sealInj s →
    ∃ t, exec .sealInj s = .next t ∧ Unchanged s t ∧
      EndsOk s t (sealEnvelope (aesKeyBytes s) (hmacKeyBytes s) (ivBytes s) (sourceBytes s))) ∧
  (∀ s : State, s.params.Legal → PassesStages .sealHexInj s →
    ∃ t, exec .sealHexInj s = .next t ∧ Unchanged s t ∧
      EndsOk s t (hexEncode (sealEnvelope (aesKeyBytes s) (hmacKeyBytes s) (ivBytes s) (sourceBytes s))))

/-- `SEAL` and `SEAL.HEX` take one draw, and when it answers `ok(b)` write the envelope of the source under the IV `b`,
and change nothing else (44_envelope.md R265, 60_exceptions.md R306). -/
def Obligations.DrawnSealWritesTheEnvelope : Prop :=
  (∀ (s : State) (b : Vector Byte 16) (rest : List (Option (Vector Byte 16))), s.params.Legal → s.rngFail = false →
    s.entropy = some b :: rest → PassesStages .sealBin s →
    ∃ t, exec .sealBin s = .next t ∧ t.entropy = rest ∧ t.draws = s.draws ∧ t.rngFail = false ∧
      t.keyValid = s.keyValid ∧ SameKeyRegisters s t ∧ SameOperands s t ∧ SameOutside s t ∧
      EndsOk s t (sealEnvelope (aesKeyBytes s) (hmacKeyBytes s) b.toList (sourceBytes s))) ∧
  (∀ (s : State) (b : Vector Byte 16) (rest : List (Option (Vector Byte 16))), s.params.Legal → s.rngFail = false →
    s.entropy = some b :: rest → PassesStages .sealHex s →
    ∃ t, exec .sealHex s = .next t ∧ t.entropy = rest ∧ t.draws = s.draws ∧ t.rngFail = false ∧
      t.keyValid = s.keyValid ∧ SameKeyRegisters s t ∧ SameOperands s t ∧ SameOutside s t ∧
      EndsOk s t (hexEncode (sealEnvelope (aesKeyBytes s) (hmacKeyBytes s) b.toList (sourceBytes s))))

/-- A failed draw ends `SEAL` and `SEAL.HEX` with `E_ENTROPY` and sets `RNGFAIL`; once it is set they fail without a draw,
and where no answer is listed the outcome is that of the free value, whichever it is: `E_ENTROPY`, or the envelope under the
16 bytes it gives (60_exceptions.md R306, 44_envelope.md R265; that the listed answers are taken first is the model's choice,
log entry 4). -/
def Obligations.EntropyFailureIsFatal : Prop :=
  ∀ (i : Instr) (s : State), i = .sealBin ∨ i = .sealHex → PassesStages i s →
    (s.rngFail = true → ∃ t, exec i s = .next t ∧ EndsWith s t .entropy ∧ Unchanged s t) ∧
    (∀ rest, s.rngFail = false → s.entropy = none :: rest →
      ∃ t, exec i s = .next t ∧ EndsWith s t .entropy ∧ t.rngFail = true ∧ t.entropy = rest ∧
        t.keyValid = s.keyValid ∧ SameKeyRegisters s t ∧ SameOperands s t ∧ SameOutside s t) ∧
    (s.rngFail = false → s.entropy = [] →
      ∃ t, exec i s = .next t ∧ t.draws = s.draws + 1 ∧ t.rngFail = (Config.entropyAnswer s.draws).isNone ∧
        (t.err = none ∨ EndsWith s t .entropy) ∧ (t.err = some .entropy ↔ Config.entropyAnswer s.draws = none) ∧
        (∀ b, Config.entropyAnswer s.draws = some b → s.params.Legal → ∃ env,
          env = sealEnvelope (aesKeyBytes s) (hmacKeyBytes s) b.toList (sourceBytes s) ∧
          (i = .sealBin → EndsOk s t env) ∧ (i = .sealHex → EndsOk s t (hexEncode env))) ∧
        t.entropy = [] ∧ t.keyValid = s.keyValid ∧ SameKeyRegisters s t ∧ SameOperands s t ∧ SameOutside s t)

/-- The latches that only a reset clears: `RNGFAIL` and `IVINJ_LOCK` stay 1 in every other step
(70_reset_and_hazards.md R340, 10_state.md R36, R37). -/
def Obligations.OnlyResetClearsTheLatches : Prop :=
  ∀ s t : State, step s = .next t → resetHasTurn s = false →
    (s.rngFail = true → t.rngFail = true) ∧ (s.ivinjLock = true → t.ivinjLock = true)

/-- `OPEN` and `OPEN.HEX` of an envelope whose signature is the HMAC of its message write the unpadded decryption of its
ciphertext, whatever its header, and change nothing else (44_envelope.md R266). -/
def Obligations.OpenWritesThePlaintext : Prop :=
  (∀ (s : State) (env p : Bytes), s.params.Legal → PassesStages .openBin s → sourceBytes s = env →
    env.drop (env.length - 20) = hmacSha1 (hmacKeyBytes s) (env.take (env.length - 20)) →
    (env.length - 41) % 16 = 0 →
    unpadBytes s.params.unpadZero
      (cbcDec (aesKeyBytes s) ((env.drop 5).take 16) ((env.drop 21).take (env.length - 41))) = .ok p →
    ∃ t, exec .openBin s = .next t ∧ EndsOk s t p ∧ Unchanged s t) ∧
  (∀ (s : State) (env p : Bytes), s.params.Legal → PassesStages .openHex s → hexDecode (sourceBytes s) = .ok env →
    env.drop (env.length - 20) = hmacSha1 (hmacKeyBytes s) (env.take (env.length - 20)) →
    (env.length - 41) % 16 = 0 →
    unpadBytes s.params.unpadZero
      (cbcDec (aesKeyBytes s) ((env.drop 5).take 16) ((env.drop 21).take (env.length - 41))) = .ok p →
    ∃ t, exec .openHex s = .next t ∧ EndsOk s t p ∧ Unchanged s t)

/-- `OPEN` checks in the source's order: a bad character wins over a bad signature, a bad signature over a bad ciphertext
length, and nothing is decrypted or written (44_envelope.md R266, 60_exceptions.md R302). -/
def Obligations.OpenChecksInTheSourcesOrder : Prop :=
  (∀ s : State, PassesStages .openHex s → hexDecode (sourceBytes s) = .error .format →
    ∃ t, exec .openHex s = .next t ∧ EndsWith s t .format ∧ Unchanged s t) ∧
  (∀ (s : State) (hex : Bool) (env : Bytes), PassesStages (openForm hex) s → readWire hex (sourceBytes s) = .ok env →
    env.drop (env.length - 20) ≠ hmacSha1 (hmacKeyBytes s) (env.take (env.length - 20)) →
    ∃ t, exec (openForm hex) s = .next t ∧ EndsWith s t .auth ∧ Unchanged s t) ∧
  (∀ (s : State) (hex : Bool) (env : Bytes), PassesStages (openForm hex) s → readWire hex (sourceBytes s) = .ok env →
    env.drop (env.length - 20) = hmacSha1 (hmacKeyBytes s) (env.take (env.length - 20)) →
    (env.length - 41) % 16 ≠ 0 ∨
      unpadBytes s.params.unpadZero
        (cbcDec (aesKeyBytes s) ((env.drop 5).take 16) ((env.drop 21).take (env.length - 41))) = .error .format →
    ∃ t, exec (openForm hex) s = .next t ∧ EndsWith s t .format ∧ Unchanged s t)

/-- Round trip: `OPEN` with `HEX = h` of the output of any `SEAL` with `HEX = h`, under the same keys, returns the
plaintext with `E_OK` (44_envelope.md R267 item 1). -/
def Obligations.OpenUndoesSeal : Prop :=
  ∀ (s t u : State) (hex ivsrc : Bool) (d : Word), s.params.Legal →
    exec (sealForm hex ivsrc) s = .next t → t.err = none →
    u = { t with srcAddr := t.dstAddr, srcLen := t.outLen, dstAddr := d } → PassesStages (openForm hex) u →
    ∃ v, exec (openForm hex) u = .next v ∧ EndsOk u v (sourceBytes s) ∧ Unchanged u v

/-! ## The host interface -/

/-- The register map: every register is at the offset that the table of R33 gives, a multiple of 4, and the other offsets of
the register space are reserved (10_state.md R33, R49). -/
def Obligations.RegisterMapIsOneToOne : Prop :=
  (Reg.offset .id = 0x000 ∧ Reg.offset .dmemSize = 0x004 ∧ Reg.offset .ctrl = 0x008 ∧ Reg.offset .status = 0x00C ∧
    Reg.offset .cmd = 0x010 ∧ Reg.offset .srcAddr = 0x014 ∧ Reg.offset .srcLen = 0x018 ∧ Reg.offset .dstAddr = 0x01C ∧
    Reg.offset .auxAddr = 0x020 ∧ Reg.offset .outLen = 0x024 ∧ (∀ k : Fin 8, Reg.offset (.aesKey k) = 0x040 + 4 * k.val) ∧
    Reg.offset .keycfg = 0x060 ∧ Reg.offset .hkeyLen = 0x064 ∧ (∀ k : Fin 16, Reg.offset (.hkey k) = 0x080 + 4 * k.val) ∧
    ∀ k : Fin 4, Reg.offset (.iv k) = 0x0C0 + 4 * k.val) ∧
  (∀ r : Reg, Reg.ofOffset r.offset = some r ∧ r.offset % 4 = 0 ∧ r.offset ≤ 0xCC) ∧
  (∀ off : Nat, off % 4 = 0 → (Reg.ofOffset off = none ↔
    (0x028 ≤ off ∧ off ≤ 0x03C) ∨ (0x068 ≤ off ∧ off ≤ 0x07C) ∨ 0x0D0 ≤ off))

/-- Wrong widths, misalignment, reserved offsets and the unmapped part of the window: the access is dropped, a read returns
0, and `ACCERR` is set (20_memory.md R85, R86). -/
def Obligations.IllegalAccessesAreDropped : Prop :=
  ∀ (s : State) (w : Width) (off : BitVec 17) (v : Word),
    (off.toNat < 0x10000 ∧ w ≠ .word) ∨ off.toNat % w.bytes ≠ 0 ∨
      (off.toNat < 0x10000 ∧ Reg.ofOffset off.toNat = none) ∨
      0x10000 + s.params.dmemBytes < off.toNat + w.bytes →
    s.params.Legal →
    hostAccess (.read w off) s = { s with accErr := true, rdata := 0 } ∧
    hostAccess (.write w off v) s = { s with accErr := true }

/-- While a command runs (20_memory.md R87): register writes but to `STATUS` and all DMEM accesses are dropped and set
`ACCERR`, register reads proceed, and the operand registers, the key registers, `CTRL` and DMEM hold their values. Busy or
not, an aligned 32-bit host access at a register's offset reads or writes that register (R84). That a write to a read-only
register is dropped while busy is the model's choice, log entry 9. -/
def Obligations.BusyFreezesTheOperands : Prop :=
  (∀ (s : State) (r : Reg) (v : Word), s.busy = true → r ≠ .status → regWrite r v s = { s with accErr := true }) ∧
  (∀ (s : State) (v : Word), s.busy = true → regWrite .status v s = writeStatus v s) ∧
  (∀ (s : State) (w : Width) (off : BitVec 17) (v : Word), s.busy = true → 0x10000 ≤ off.toNat →
    hostAccess (.read w off) s = { s with accErr := true, rdata := 0 } ∧
    hostAccess (.write w off v) s = { s with accErr := true }) ∧
  (∀ (s : State) (r : Reg), hostAccess (.read .word (BitVec.ofNat 17 r.offset)) s = { s with rdata := regRead s r }) ∧
  (∀ (s : State) (r : Reg) (v : Word), hostAccess (.write .word (BitVec.ofNat 17 r.offset) v) s = regWrite r v s) ∧
  (∀ s : State, s.Inv → s.busy = true → s.done = false ∧ s.err = none ∧ s.outLen = 0) ∧
  (∀ (s : State) (a : Access), s.busy = true → s.done = false →
    hostAccess a s = { s with accErr := (hostAccess a s).accErr, rdata := (hostAccess a s).rdata })

/-- Nothing the host does between acceptance and completion changes the command's result: every host access while busy
commutes with the command but for `ACCERR` and the host's own reply (20_memory.md R94). -/
def Obligations.BusyAccessesDoNotChangeTheResult : Prop :=
  ∀ (i : Instr) (s : State) (a : Access), s.busy = true → s.done = false →
    ∃ t u, exec i s = .next u ∧ exec i (hostAccess a s) = .next t ∧
      t = { u with accErr := (hostAccess a s).accErr, rdata := (hostAccess a s).rdata }

/-- `CMD` (10_state.md R38): it reads 0; an idle engine accepts every word; while busy a write is dropped, sets `ACCERR`
and does not affect the running command. -/
def Obligations.CmdAcceptsEveryWordWhileIdle : Prop :=
  ∀ (s : State) (w : Word), regRead s .cmd = 0 ∧
    (s.busy = false → regWrite .cmd w s =
      { s with curcmd := w, busy := true, done := false, err := none, outLen := 0 }) ∧
    (s.busy = true → regWrite .cmd w s = { s with accErr := true })

/-- A write to `CTRL` (10_state.md R36): the lock wins over an enable in the same write, stays set, and the reserved bits
read 0. -/
def Obligations.CtrlLockWins : Prop :=
  ∀ (s t : State) (v : Word), s.busy = false → regWrite .ctrl v s = t →
    t.irqEn = v.getLsbD 0 ∧ t.ivinjLock = (s.ivinjLock || v.getLsbD 2) ∧
    t.ivinjEn = (!t.ivinjLock && v.getLsbD 1) ∧
    t = { s with irqEn := t.irqEn, ivinjLock := t.ivinjLock, ivinjEn := t.ivinjEn } ∧
    (regRead t .ctrl).getLsbD 0 = t.irqEn ∧ (regRead t .ctrl).getLsbD 1 = t.ivinjEn ∧
    (regRead t .ctrl).getLsbD 2 = t.ivinjLock ∧ ∀ k, 3 ≤ k → (regRead t .ctrl).getLsbD k = false

/-- `STATUS` (10_state.md R37): each bit of a read is its field, the reserved bits read 0, and a write clears `DONE` and
`ACCERR` where it writes 1 and changes nothing else, also while busy. The codes of `ERR` are those of the table of R300. -/
def Obligations.StatusReadsAndClears : Prop :=
  (errCode none = 0 ∧ errCode (some .format) = 1 ∧ errCode (some .auth) = 2 ∧ errCode (some .config) = 3 ∧
    errCode (some .entropy) = 4 ∧ errCode (some .noKey) = 5 ∧ errCode (some .range) = 6 ∧
    errCode (some .overlap) = 7 ∧ errCode (some .cmd) = 8) ∧
  ∀ (s : State) (v : Word),
    (regRead s .status).getLsbD 0 = s.busy ∧ (regRead s .status).getLsbD 1 = s.done ∧
    (regRead s .status).getLsbD 2 = s.accErr ∧ (regRead s .status).getLsbD 3 = s.keyValid ∧
    (regRead s .status).getLsbD 4 = s.rngFail ∧ (regRead s .status).extractLsb' 5 3 = 0 ∧
    (regRead s .status).extractLsb' 8 4 = errCode s.err ∧ (regRead s .status).extractLsb' 12 20 = 0 ∧
    regWrite .status v s = { s with done := s.done && !v.getLsbD 1, accErr := s.accErr && !v.getLsbD 2 }

/-- An idle engine's host write to an operand or IV register stores the whole word there and changes nothing else of the
state: it reads back, and no other register's reading changes (10_state.md R39 to R42, R48). -/
def Obligations.OperandRegistersReadBack : Prop :=
  (∀ (s : State) (v : Word), s.busy = false →
    regWrite .srcAddr v s = { s with srcAddr := v } ∧ regWrite .srcLen v s = { s with srcLen := v } ∧
    regWrite .dstAddr v s = { s with dstAddr := v } ∧ regWrite .auxAddr v s = { s with auxAddr := v } ∧
    ∀ k : Fin 4, regWrite (.iv k) v s = { s with iv := s.iv.set k v }) ∧
  (∀ (s : State) (r r' : Reg) (v : Word), s.busy = false →
    (r = .srcAddr ∨ r = .srcLen ∨ r = .dstAddr ∨ r = .auxAddr ∨ ∃ k, r = .iv k) →
    regRead (regWrite r v s) r = v ∧ (r' ≠ r → regRead (regWrite r v s) r' = regRead s r') ∧
    (regWrite r v s).accErr = s.accErr ∧ SameBytes s (regWrite r v s))

/-- The read-only registers read their values, and an idle engine ignores writes to them without `ACCERR` (10_state.md R34,
R35, R43). -/
def Obligations.ReadOnlyRegistersIgnoreWrites : Prop :=
  ∀ (s : State) (v : Word),
    regRead s .id = 0x53543201 ∧ regRead s .dmemSize = BitVec.ofNat 32 s.params.dmemBytes ∧
    regRead s .outLen = s.outLen ∧
    (s.busy = false → regWrite .id v s = s ∧ regWrite .dmemSize v s = s ∧ regWrite .outLen v s = s)

/-- `KEYCFG` and `HKEY_LEN` read back what an idle engine's host wrote while no key is committed, legal or not; the reserved
bits read 0 (10_state.md R45, R46). -/
def Obligations.KeyConfigurationReadsBack : Prop :=
  ∀ (s : State) (v : Word), s.busy = false → s.keyValid = false →
    regRead (regWrite .keycfg v s) .keycfg = v &&& 0x00FFFFFF ∧
    regRead (regWrite .hkeyLen v s) .hkeyLen = v &&& 0x0000FFFF ∧
    (regWrite .keycfg v s).accErr = s.accErr ∧ (regWrite .hkeyLen v s).accErr = s.accErr

/-- Little-endian lanes (20_memory.md R82): an idle host's legal write of `w` bytes stores byte `k` of the bus data at
`a + k` and nothing else, and a legal read returns the bytes in the same lanes. -/
def Obligations.HostLanesAreLittleEndian : Prop :=
  ∀ (s : State) (w : Width) (off : BitVec 17) (v : Word) (a : Nat), s.busy = false → off.toNat = 0x10000 + a →
    a % w.bytes = 0 → a + w.bytes ≤ s.params.dmemBytes →
    (∃ t, hostAccess (.write w off v) s = t ∧ t = { s with dmem := t.dmem } ∧ SameBytesOutside s t a w.bytes ∧
      ∀ k, k < w.bytes → t.byteAt (a + k) = v.extractLsb' (8 * k) 8) ∧
    (∃ t, hostAccess (.read w off) s = t ∧ t = { s with rdata := t.rdata } ∧
      ∀ k, k < w.bytes → t.rdata.extractLsb' (8 * k) 8 = s.byteAt (a + k))

/-- Key material never leaves the engine through a host access: what the host reads does not depend on the key registers,
which read 0 (10_state.md R44, R47). -/
def Obligations.KeyRegistersCannotBeRead : Prop :=
  ∀ (s : State) (a : Access) (k : Vector Word 8) (h : Vector Word 16),
    (hostAccess a { s with aesKey := k, hkey := h }).rdata = (hostAccess a s).rdata ∧
    (∀ j, regRead s (.aesKey j) = 0) ∧ ∀ j, regRead s (.hkey j) = 0

/-- Bytes of the key registers outside `AESKEY` and `HKEY` have no effect on any command: `AES_KEY4` to `AES_KEY7` with a
128-bit key, the bytes at and above `HKEY_LEN` (10_state.md R44, R47). -/
def Obligations.UnusedKeyBytesHaveNoEffect : Prop :=
  (∀ s : State, s.keySize = 128 → ∀ k : Vector Word 8, (∀ j : Fin 4, k[j.val] = s.aesKey[j.val]) →
    aesKeyBytes { s with aesKey := k } = aesKeyBytes s) ∧
  (∀ (s : State) (h : Vector Word 16),
    (∀ (j : Fin 16) (l : Fin 4), 4 * j.val + l.val < s.hkeyLen.toNat →
      h[j].extractLsb' (8 * l.val) 8 = s.hkey[j].extractLsb' (8 * l.val) 8) →
    hmacKeyBytes { s with hkey := h } = hmacKeyBytes s) ∧
  (∀ (i : Instr) (s s' t t' : State), s' = { s with aesKey := s'.aesKey, hkey := s'.hkey } →
    aesKeyBytes s' = aesKeyBytes s → hmacKeyBytes s' = hmacKeyBytes s →
    exec i s = .next t → exec i s' = .next t' → t' = { t with aesKey := t'.aesKey, hkey := t'.hkey })

/-- The interrupt output follows `DONE` while it is enabled: raised by every completion, dropped by writing 1 to
`STATUS.DONE` and by the next accepted command (10_state.md R55, 60_exceptions.md R311). -/
def Obligations.IrqFollowsDone : Prop :=
  ∀ s : State, (irq s = true ↔ s.irqEn = true ∧ s.done = true) ∧
    (∀ i t, exec i s = .next t → irq t = s.irqEn) ∧
    (∀ v : Word, v.getLsbD 1 = true → irq (regWrite .status v s) = false) ∧
    (∀ w : Word, s.busy = false → irq (regWrite .cmd w s) = false)

/-- An asserted `rst` clears every register, discards a pending command, and leaves the parameters
(70_reset_and_hazards.md R340, R342). What it leaves outside the engine (answers, draws, turns) is the model's choice, log
entry 8. -/
def Obligations.ResetClearsEveryRegister : Prop :=
  ∀ (s : State) (ts : List Turn), s.turns = .rst :: ts →
    ∃ t, step s = .next t ∧ t.turns = ts ∧ t.params = s.params ∧ t.entropy = s.entropy ∧ t.draws = s.draws ∧
      ctrlWord t = 0 ∧ statusWord t = 0 ∧ t.curcmd = 0 ∧ t.srcAddr = 0 ∧ t.srcLen = 0 ∧ t.dstAddr = 0 ∧ t.auxAddr = 0 ∧
      t.outLen = 0 ∧ keycfgWord t = 0 ∧ hkeyLenWord t = 0 ∧ (∀ k : Fin 8, t.aesKey[k] = 0) ∧
      (∀ k : Fin 16, t.hkey[k] = 0) ∧ (∀ k : Fin 4, t.iv[k] = 0) ∧ irq t = false ∧
      regRead t .id = 0x53543201 ∧ regRead t .dmemSize = BitVec.ofNat 32 s.params.dmemBytes

/-! ## The codes and the bytes that the other statements speak of -/

/-- The digits of the hex codec are the ASCII codes that the spec writes out: the uppercase digits of the nibbles, and the
value of every byte, invalid outside the three ranges (44_envelope.md R261, R262). The codes are the spec's general
knowledge, log entry 10. -/
def Obligations.HexDigitsAreTheAsciiCodes : Prop :=
  (∀ v : Byte, (v.toNat ≤ 9 → (hexDigit v).toNat = 0x30 + v.toNat) ∧
    (10 ≤ v.toNat → v.toNat ≤ 15 → (hexDigit v).toNat = 0x41 + (v.toNat - 10))) ∧
  (∀ c : Byte,
    (0x30 ≤ c.toNat ∧ c.toNat ≤ 0x39 → ∃ v, hexVal c = some v ∧ v.toNat = c.toNat - 0x30) ∧
    (0x41 ≤ c.toNat ∧ c.toNat ≤ 0x46 → ∃ v, hexVal c = some v ∧ v.toNat = c.toNat - 0x41 + 10) ∧
    (0x61 ≤ c.toNat ∧ c.toNat ≤ 0x66 → ∃ v, hexVal c = some v ∧ v.toNat = c.toNat - 0x61 + 10) ∧
    (c.toNat < 0x30 ∨ (0x39 < c.toNat ∧ c.toNat < 0x41) ∨ (0x46 < c.toNat ∧ c.toNat < 0x61) ∨ 0x66 < c.toNat →
      hexVal c = none))

/-- The byte strings that the commands read: the source and the tag are the bytes of DMEM from `SRC_ADDR` and `AUX_ADDR` on,
and byte `k` of `AESKEY`, `HKEY` and `IVREG` is bits `8·(k mod 4)+7 : 8·(k mod 4)` of register `k div 4`, as far as the key
reaches (10_state.md R39, R40, R42, R44, R47, R48; 20_memory.md R82). -/
def Obligations.OperandBytesComeFromTheirRegisters : Prop :=
  ∀ s : State,
    (sourceBytes s).length = s.srcLen.toNat ∧
    (∀ k, k < s.srcLen.toNat → (sourceBytes s)[k]? = some (s.byteAt (s.srcAddr.toNat + k))) ∧
    (tagBytes s).length = 20 ∧ (∀ k, k < 20 → (tagBytes s)[k]? = some (s.byteAt (s.auxAddr.toNat + k))) ∧
    (aesKeyBytes s).length = min 32 (s.keySize.toNat / 8) ∧
    (∀ (j : Fin 8) (l : Fin 4), 4 * j.val + l.val < s.keySize.toNat / 8 →
      (aesKeyBytes s)[4 * j.val + l.val]? = some (s.aesKey[j].extractLsb' (8 * l.val) 8)) ∧
    (hmacKeyBytes s).length = min 64 s.hkeyLen.toNat ∧
    (∀ (j : Fin 16) (l : Fin 4), 4 * j.val + l.val < s.hkeyLen.toNat →
      (hmacKeyBytes s)[4 * j.val + l.val]? = some (s.hkey[j].extractLsb' (8 * l.val) 8)) ∧
    (ivBytes s).length = 16 ∧
    (∀ (j l : Fin 4), (ivBytes s)[4 * j.val + l.val]? = some (s.iv[j].extractLsb' (8 * l.val) 8))
end

