-- ==== Sys2Proof/Laws/State.lean ====
section
/-! SUPPORT. One lemma per field per update of the state, true by `rfl`, so that no later proof unfolds a record update. -/

namespace Sys2Proof.Machine

variable (s : State) (w v : Word) (a : Nat) (out : Bytes) (e : Failure)

/-! The fields of `complete (.ok out) s`. -/

@[simp] theorem complete_ok_params : (complete (.ok out) s).params = s.params := rfl
@[simp] theorem complete_ok_irqEn : (complete (.ok out) s).irqEn = s.irqEn := rfl
@[simp] theorem complete_ok_ivinjEn : (complete (.ok out) s).ivinjEn = s.ivinjEn := rfl
@[simp] theorem complete_ok_ivinjLock : (complete (.ok out) s).ivinjLock = s.ivinjLock := rfl
@[simp] theorem complete_ok_busy : (complete (.ok out) s).busy = false := rfl
@[simp] theorem complete_ok_done : (complete (.ok out) s).done = true := rfl
@[simp] theorem complete_ok_accErr : (complete (.ok out) s).accErr = s.accErr := rfl
@[simp] theorem complete_ok_keyValid : (complete (.ok out) s).keyValid = s.keyValid := rfl
@[simp] theorem complete_ok_rngFail : (complete (.ok out) s).rngFail = s.rngFail := rfl
@[simp] theorem complete_ok_err : (complete (.ok out) s).err = none := rfl
@[simp] theorem complete_ok_curcmd : (complete (.ok out) s).curcmd = s.curcmd := rfl
@[simp] theorem complete_ok_srcAddr : (complete (.ok out) s).srcAddr = s.srcAddr := rfl
@[simp] theorem complete_ok_srcLen : (complete (.ok out) s).srcLen = s.srcLen := rfl
@[simp] theorem complete_ok_dstAddr : (complete (.ok out) s).dstAddr = s.dstAddr := rfl
@[simp] theorem complete_ok_auxAddr : (complete (.ok out) s).auxAddr = s.auxAddr := rfl
@[simp] theorem complete_ok_outLen : (complete (.ok out) s).outLen = BitVec.ofNat 32 out.length := rfl
@[simp] theorem complete_ok_aesKey : (complete (.ok out) s).aesKey = s.aesKey := rfl
@[simp] theorem complete_ok_keySize : (complete (.ok out) s).keySize = s.keySize := rfl
@[simp] theorem complete_ok_keyMode : (complete (.ok out) s).keyMode = s.keyMode := rfl
@[simp] theorem complete_ok_hkeyLen : (complete (.ok out) s).hkeyLen = s.hkeyLen := rfl
@[simp] theorem complete_ok_hkey : (complete (.ok out) s).hkey = s.hkey := rfl
@[simp] theorem complete_ok_iv : (complete (.ok out) s).iv = s.iv := rfl
@[simp] theorem complete_ok_dmem : (complete (.ok out) s).dmem = s.dmem.writeBytes s.dstAddr.toNat out := rfl
@[simp] theorem complete_ok_entropy : (complete (.ok out) s).entropy = s.entropy := rfl
@[simp] theorem complete_ok_draws : (complete (.ok out) s).draws = s.draws := rfl
@[simp] theorem complete_ok_resets : (complete (.ok out) s).resets = s.resets := rfl
@[simp] theorem complete_ok_turns : (complete (.ok out) s).turns = s.turns := rfl
@[simp] theorem complete_ok_rdata : (complete (.ok out) s).rdata = s.rdata := rfl

/-! The fields of `complete (.error e) s`. -/

@[simp] theorem complete_error_params : (complete (.error e) s).params = s.params := rfl
@[simp] theorem complete_error_irqEn : (complete (.error e) s).irqEn = s.irqEn := rfl
@[simp] theorem complete_error_ivinjEn : (complete (.error e) s).ivinjEn = s.ivinjEn := rfl
@[simp] theorem complete_error_ivinjLock : (complete (.error e) s).ivinjLock = s.ivinjLock := rfl
@[simp] theorem complete_error_busy : (complete (.error e) s).busy = false := rfl
@[simp] theorem complete_error_done : (complete (.error e) s).done = true := rfl
@[simp] theorem complete_error_accErr : (complete (.error e) s).accErr = s.accErr := rfl
@[simp] theorem complete_error_keyValid : (complete (.error e) s).keyValid = s.keyValid := rfl
@[simp] theorem complete_error_rngFail : (complete (.error e) s).rngFail = s.rngFail := rfl
@[simp] theorem complete_error_err : (complete (.error e) s).err = some e := rfl
@[simp] theorem complete_error_curcmd : (complete (.error e) s).curcmd = s.curcmd := rfl
@[simp] theorem complete_error_srcAddr : (complete (.error e) s).srcAddr = s.srcAddr := rfl
@[simp] theorem complete_error_srcLen : (complete (.error e) s).srcLen = s.srcLen := rfl
@[simp] theorem complete_error_dstAddr : (complete (.error e) s).dstAddr = s.dstAddr := rfl
@[simp] theorem complete_error_auxAddr : (complete (.error e) s).auxAddr = s.auxAddr := rfl
@[simp] theorem complete_error_outLen : (complete (.error e) s).outLen = 0 := rfl
@[simp] theorem complete_error_aesKey : (complete (.error e) s).aesKey = s.aesKey := rfl
@[simp] theorem complete_error_keySize : (complete (.error e) s).keySize = s.keySize := rfl
@[simp] theorem complete_error_keyMode : (complete (.error e) s).keyMode = s.keyMode := rfl
@[simp] theorem complete_error_hkeyLen : (complete (.error e) s).hkeyLen = s.hkeyLen := rfl
@[simp] theorem complete_error_hkey : (complete (.error e) s).hkey = s.hkey := rfl
@[simp] theorem complete_error_iv : (complete (.error e) s).iv = s.iv := rfl
@[simp] theorem complete_error_dmem : (complete (.error e) s).dmem = s.dmem := rfl
@[simp] theorem complete_error_entropy : (complete (.error e) s).entropy = s.entropy := rfl
@[simp] theorem complete_error_draws : (complete (.error e) s).draws = s.draws := rfl
@[simp] theorem complete_error_resets : (complete (.error e) s).resets = s.resets := rfl
@[simp] theorem complete_error_turns : (complete (.error e) s).turns = s.turns := rfl
@[simp] theorem complete_error_rdata : (complete (.error e) s).rdata = s.rdata := rfl

/-! The fields of `memWrite a out s`. -/

@[simp] theorem memWrite_params : (memWrite a out s).params = s.params := rfl
@[simp] theorem memWrite_irqEn : (memWrite a out s).irqEn = s.irqEn := rfl
@[simp] theorem memWrite_ivinjEn : (memWrite a out s).ivinjEn = s.ivinjEn := rfl
@[simp] theorem memWrite_ivinjLock : (memWrite a out s).ivinjLock = s.ivinjLock := rfl
@[simp] theorem memWrite_busy : (memWrite a out s).busy = s.busy := rfl
@[simp] theorem memWrite_done : (memWrite a out s).done = s.done := rfl
@[simp] theorem memWrite_accErr : (memWrite a out s).accErr = s.accErr := rfl
@[simp] theorem memWrite_keyValid : (memWrite a out s).keyValid = s.keyValid := rfl
@[simp] theorem memWrite_rngFail : (memWrite a out s).rngFail = s.rngFail := rfl
@[simp] theorem memWrite_err : (memWrite a out s).err = s.err := rfl
@[simp] theorem memWrite_curcmd : (memWrite a out s).curcmd = s.curcmd := rfl
@[simp] theorem memWrite_srcAddr : (memWrite a out s).srcAddr = s.srcAddr := rfl
@[simp] theorem memWrite_srcLen : (memWrite a out s).srcLen = s.srcLen := rfl
@[simp] theorem memWrite_dstAddr : (memWrite a out s).dstAddr = s.dstAddr := rfl
@[simp] theorem memWrite_auxAddr : (memWrite a out s).auxAddr = s.auxAddr := rfl
@[simp] theorem memWrite_outLen : (memWrite a out s).outLen = s.outLen := rfl
@[simp] theorem memWrite_aesKey : (memWrite a out s).aesKey = s.aesKey := rfl
@[simp] theorem memWrite_keySize : (memWrite a out s).keySize = s.keySize := rfl
@[simp] theorem memWrite_keyMode : (memWrite a out s).keyMode = s.keyMode := rfl
@[simp] theorem memWrite_hkeyLen : (memWrite a out s).hkeyLen = s.hkeyLen := rfl
@[simp] theorem memWrite_hkey : (memWrite a out s).hkey = s.hkey := rfl
@[simp] theorem memWrite_iv : (memWrite a out s).iv = s.iv := rfl
@[simp] theorem memWrite_dmem : (memWrite a out s).dmem = s.dmem.writeBytes a out := rfl
@[simp] theorem memWrite_entropy : (memWrite a out s).entropy = s.entropy := rfl
@[simp] theorem memWrite_draws : (memWrite a out s).draws = s.draws := rfl
@[simp] theorem memWrite_resets : (memWrite a out s).resets = s.resets := rfl
@[simp] theorem memWrite_turns : (memWrite a out s).turns = s.turns := rfl
@[simp] theorem memWrite_rdata : (memWrite a out s).rdata = s.rdata := rfl

/-! The fields of `acceptCommand w s`. -/

@[simp] theorem acceptCommand_params : (acceptCommand w s).params = s.params := rfl
@[simp] theorem acceptCommand_irqEn : (acceptCommand w s).irqEn = s.irqEn := rfl
@[simp] theorem acceptCommand_ivinjEn : (acceptCommand w s).ivinjEn = s.ivinjEn := rfl
@[simp] theorem acceptCommand_ivinjLock : (acceptCommand w s).ivinjLock = s.ivinjLock := rfl
@[simp] theorem acceptCommand_busy : (acceptCommand w s).busy = true := rfl
@[simp] theorem acceptCommand_done : (acceptCommand w s).done = false := rfl
@[simp] theorem acceptCommand_accErr : (acceptCommand w s).accErr = s.accErr := rfl
@[simp] theorem acceptCommand_keyValid : (acceptCommand w s).keyValid = s.keyValid := rfl
@[simp] theorem acceptCommand_rngFail : (acceptCommand w s).rngFail = s.rngFail := rfl
@[simp] theorem acceptCommand_err : (acceptCommand w s).err = none := rfl
@[simp] theorem acceptCommand_curcmd : (acceptCommand w s).curcmd = w := rfl
@[simp] theorem acceptCommand_srcAddr : (acceptCommand w s).srcAddr = s.srcAddr := rfl
@[simp] theorem acceptCommand_srcLen : (acceptCommand w s).srcLen = s.srcLen := rfl
@[simp] theorem acceptCommand_dstAddr : (acceptCommand w s).dstAddr = s.dstAddr := rfl
@[simp] theorem acceptCommand_auxAddr : (acceptCommand w s).auxAddr = s.auxAddr := rfl
@[simp] theorem acceptCommand_outLen : (acceptCommand w s).outLen = 0 := rfl
@[simp] theorem acceptCommand_aesKey : (acceptCommand w s).aesKey = s.aesKey := rfl
@[simp] theorem acceptCommand_keySize : (acceptCommand w s).keySize = s.keySize := rfl
@[simp] theorem acceptCommand_keyMode : (acceptCommand w s).keyMode = s.keyMode := rfl
@[simp] theorem acceptCommand_hkeyLen : (acceptCommand w s).hkeyLen = s.hkeyLen := rfl
@[simp] theorem acceptCommand_hkey : (acceptCommand w s).hkey = s.hkey := rfl
@[simp] theorem acceptCommand_iv : (acceptCommand w s).iv = s.iv := rfl
@[simp] theorem acceptCommand_dmem : (acceptCommand w s).dmem = s.dmem := rfl
@[simp] theorem acceptCommand_entropy : (acceptCommand w s).entropy = s.entropy := rfl
@[simp] theorem acceptCommand_draws : (acceptCommand w s).draws = s.draws := rfl
@[simp] theorem acceptCommand_resets : (acceptCommand w s).resets = s.resets := rfl
@[simp] theorem acceptCommand_turns : (acceptCommand w s).turns = s.turns := rfl
@[simp] theorem acceptCommand_rdata : (acceptCommand w s).rdata = s.rdata := rfl

/-! The fields of `writeStatus v s`. -/

@[simp] theorem writeStatus_params : (writeStatus v s).params = s.params := rfl
@[simp] theorem writeStatus_irqEn : (writeStatus v s).irqEn = s.irqEn := rfl
@[simp] theorem writeStatus_ivinjEn : (writeStatus v s).ivinjEn = s.ivinjEn := rfl
@[simp] theorem writeStatus_ivinjLock : (writeStatus v s).ivinjLock = s.ivinjLock := rfl
@[simp] theorem writeStatus_busy : (writeStatus v s).busy = s.busy := rfl
@[simp] theorem writeStatus_done : (writeStatus v s).done = (s.done && !v.getLsbD 1) := rfl
@[simp] theorem writeStatus_accErr : (writeStatus v s).accErr = (s.accErr && !v.getLsbD 2) := rfl
@[simp] theorem writeStatus_keyValid : (writeStatus v s).keyValid = s.keyValid := rfl
@[simp] theorem writeStatus_rngFail : (writeStatus v s).rngFail = s.rngFail := rfl
@[simp] theorem writeStatus_err : (writeStatus v s).err = s.err := rfl
@[simp] theorem writeStatus_curcmd : (writeStatus v s).curcmd = s.curcmd := rfl
@[simp] theorem writeStatus_srcAddr : (writeStatus v s).srcAddr = s.srcAddr := rfl
@[simp] theorem writeStatus_srcLen : (writeStatus v s).srcLen = s.srcLen := rfl
@[simp] theorem writeStatus_dstAddr : (writeStatus v s).dstAddr = s.dstAddr := rfl
@[simp] theorem writeStatus_auxAddr : (writeStatus v s).auxAddr = s.auxAddr := rfl
@[simp] theorem writeStatus_outLen : (writeStatus v s).outLen = s.outLen := rfl
@[simp] theorem writeStatus_aesKey : (writeStatus v s).aesKey = s.aesKey := rfl
@[simp] theorem writeStatus_keySize : (writeStatus v s).keySize = s.keySize := rfl
@[simp] theorem writeStatus_keyMode : (writeStatus v s).keyMode = s.keyMode := rfl
@[simp] theorem writeStatus_hkeyLen : (writeStatus v s).hkeyLen = s.hkeyLen := rfl
@[simp] theorem writeStatus_hkey : (writeStatus v s).hkey = s.hkey := rfl
@[simp] theorem writeStatus_iv : (writeStatus v s).iv = s.iv := rfl
@[simp] theorem writeStatus_dmem : (writeStatus v s).dmem = s.dmem := rfl
@[simp] theorem writeStatus_entropy : (writeStatus v s).entropy = s.entropy := rfl
@[simp] theorem writeStatus_draws : (writeStatus v s).draws = s.draws := rfl
@[simp] theorem writeStatus_resets : (writeStatus v s).resets = s.resets := rfl
@[simp] theorem writeStatus_turns : (writeStatus v s).turns = s.turns := rfl
@[simp] theorem writeStatus_rdata : (writeStatus v s).rdata = s.rdata := rfl

/-! The fields of `writeCtrl v s`. -/

@[simp] theorem writeCtrl_params : (writeCtrl v s).params = s.params := rfl
@[simp] theorem writeCtrl_irqEn : (writeCtrl v s).irqEn = v.getLsbD 0 := rfl
@[simp] theorem writeCtrl_ivinjEn : (writeCtrl v s).ivinjEn = (if s.ivinjLock || v.getLsbD 2 then false else v.getLsbD 1) := rfl
@[simp] theorem writeCtrl_ivinjLock : (writeCtrl v s).ivinjLock = (s.ivinjLock || v.getLsbD 2) := rfl
@[simp] theorem writeCtrl_busy : (writeCtrl v s).busy = s.busy := rfl
@[simp] theorem writeCtrl_done : (writeCtrl v s).done = s.done := rfl
@[simp] theorem writeCtrl_accErr : (writeCtrl v s).accErr = s.accErr := rfl
@[simp] theorem writeCtrl_keyValid : (writeCtrl v s).keyValid = s.keyValid := rfl
@[simp] theorem writeCtrl_rngFail : (writeCtrl v s).rngFail = s.rngFail := rfl
@[simp] theorem writeCtrl_err : (writeCtrl v s).err = s.err := rfl
@[simp] theorem writeCtrl_curcmd : (writeCtrl v s).curcmd = s.curcmd := rfl
@[simp] theorem writeCtrl_srcAddr : (writeCtrl v s).srcAddr = s.srcAddr := rfl
@[simp] theorem writeCtrl_srcLen : (writeCtrl v s).srcLen = s.srcLen := rfl
@[simp] theorem writeCtrl_dstAddr : (writeCtrl v s).dstAddr = s.dstAddr := rfl
@[simp] theorem writeCtrl_auxAddr : (writeCtrl v s).auxAddr = s.auxAddr := rfl
@[simp] theorem writeCtrl_outLen : (writeCtrl v s).outLen = s.outLen := rfl
@[simp] theorem writeCtrl_aesKey : (writeCtrl v s).aesKey = s.aesKey := rfl
@[simp] theorem writeCtrl_keySize : (writeCtrl v s).keySize = s.keySize := rfl
@[simp] theorem writeCtrl_keyMode : (writeCtrl v s).keyMode = s.keyMode := rfl
@[simp] theorem writeCtrl_hkeyLen : (writeCtrl v s).hkeyLen = s.hkeyLen := rfl
@[simp] theorem writeCtrl_hkey : (writeCtrl v s).hkey = s.hkey := rfl
@[simp] theorem writeCtrl_iv : (writeCtrl v s).iv = s.iv := rfl
@[simp] theorem writeCtrl_dmem : (writeCtrl v s).dmem = s.dmem := rfl
@[simp] theorem writeCtrl_entropy : (writeCtrl v s).entropy = s.entropy := rfl
@[simp] theorem writeCtrl_draws : (writeCtrl v s).draws = s.draws := rfl
@[simp] theorem writeCtrl_resets : (writeCtrl v s).resets = s.resets := rfl
@[simp] theorem writeCtrl_turns : (writeCtrl v s).turns = s.turns := rfl
@[simp] theorem writeCtrl_rdata : (writeCtrl v s).rdata = s.rdata := rfl

/-! The fields of `dropAccess s`. -/

@[simp] theorem dropAccess_params : (dropAccess s).params = s.params := rfl
@[simp] theorem dropAccess_irqEn : (dropAccess s).irqEn = s.irqEn := rfl
@[simp] theorem dropAccess_ivinjEn : (dropAccess s).ivinjEn = s.ivinjEn := rfl
@[simp] theorem dropAccess_ivinjLock : (dropAccess s).ivinjLock = s.ivinjLock := rfl
@[simp] theorem dropAccess_busy : (dropAccess s).busy = s.busy := rfl
@[simp] theorem dropAccess_done : (dropAccess s).done = s.done := rfl
@[simp] theorem dropAccess_accErr : (dropAccess s).accErr = true := rfl
@[simp] theorem dropAccess_keyValid : (dropAccess s).keyValid = s.keyValid := rfl
@[simp] theorem dropAccess_rngFail : (dropAccess s).rngFail = s.rngFail := rfl
@[simp] theorem dropAccess_err : (dropAccess s).err = s.err := rfl
@[simp] theorem dropAccess_curcmd : (dropAccess s).curcmd = s.curcmd := rfl
@[simp] theorem dropAccess_srcAddr : (dropAccess s).srcAddr = s.srcAddr := rfl
@[simp] theorem dropAccess_srcLen : (dropAccess s).srcLen = s.srcLen := rfl
@[simp] theorem dropAccess_dstAddr : (dropAccess s).dstAddr = s.dstAddr := rfl
@[simp] theorem dropAccess_auxAddr : (dropAccess s).auxAddr = s.auxAddr := rfl
@[simp] theorem dropAccess_outLen : (dropAccess s).outLen = s.outLen := rfl
@[simp] theorem dropAccess_aesKey : (dropAccess s).aesKey = s.aesKey := rfl
@[simp] theorem dropAccess_keySize : (dropAccess s).keySize = s.keySize := rfl
@[simp] theorem dropAccess_keyMode : (dropAccess s).keyMode = s.keyMode := rfl
@[simp] theorem dropAccess_hkeyLen : (dropAccess s).hkeyLen = s.hkeyLen := rfl
@[simp] theorem dropAccess_hkey : (dropAccess s).hkey = s.hkey := rfl
@[simp] theorem dropAccess_iv : (dropAccess s).iv = s.iv := rfl
@[simp] theorem dropAccess_dmem : (dropAccess s).dmem = s.dmem := rfl
@[simp] theorem dropAccess_entropy : (dropAccess s).entropy = s.entropy := rfl
@[simp] theorem dropAccess_draws : (dropAccess s).draws = s.draws := rfl
@[simp] theorem dropAccess_resets : (dropAccess s).resets = s.resets := rfl
@[simp] theorem dropAccess_turns : (dropAccess s).turns = s.turns := rfl
@[simp] theorem dropAccess_rdata : (dropAccess s).rdata = s.rdata := rfl

/-! The fields of `dropRead s`. -/

@[simp] theorem dropRead_params : (dropRead s).params = s.params := rfl
@[simp] theorem dropRead_irqEn : (dropRead s).irqEn = s.irqEn := rfl
@[simp] theorem dropRead_ivinjEn : (dropRead s).ivinjEn = s.ivinjEn := rfl
@[simp] theorem dropRead_ivinjLock : (dropRead s).ivinjLock = s.ivinjLock := rfl
@[simp] theorem dropRead_busy : (dropRead s).busy = s.busy := rfl
@[simp] theorem dropRead_done : (dropRead s).done = s.done := rfl
@[simp] theorem dropRead_accErr : (dropRead s).accErr = true := rfl
@[simp] theorem dropRead_keyValid : (dropRead s).keyValid = s.keyValid := rfl
@[simp] theorem dropRead_rngFail : (dropRead s).rngFail = s.rngFail := rfl
@[simp] theorem dropRead_err : (dropRead s).err = s.err := rfl
@[simp] theorem dropRead_curcmd : (dropRead s).curcmd = s.curcmd := rfl
@[simp] theorem dropRead_srcAddr : (dropRead s).srcAddr = s.srcAddr := rfl
@[simp] theorem dropRead_srcLen : (dropRead s).srcLen = s.srcLen := rfl
@[simp] theorem dropRead_dstAddr : (dropRead s).dstAddr = s.dstAddr := rfl
@[simp] theorem dropRead_auxAddr : (dropRead s).auxAddr = s.auxAddr := rfl
@[simp] theorem dropRead_outLen : (dropRead s).outLen = s.outLen := rfl
@[simp] theorem dropRead_aesKey : (dropRead s).aesKey = s.aesKey := rfl
@[simp] theorem dropRead_keySize : (dropRead s).keySize = s.keySize := rfl
@[simp] theorem dropRead_keyMode : (dropRead s).keyMode = s.keyMode := rfl
@[simp] theorem dropRead_hkeyLen : (dropRead s).hkeyLen = s.hkeyLen := rfl
@[simp] theorem dropRead_hkey : (dropRead s).hkey = s.hkey := rfl
@[simp] theorem dropRead_iv : (dropRead s).iv = s.iv := rfl
@[simp] theorem dropRead_dmem : (dropRead s).dmem = s.dmem := rfl
@[simp] theorem dropRead_entropy : (dropRead s).entropy = s.entropy := rfl
@[simp] theorem dropRead_draws : (dropRead s).draws = s.draws := rfl
@[simp] theorem dropRead_resets : (dropRead s).resets = s.resets := rfl
@[simp] theorem dropRead_turns : (dropRead s).turns = s.turns := rfl
@[simp] theorem dropRead_rdata : (dropRead s).rdata = 0 := rfl

/-! The fields of `hardReset s`. -/

@[simp] theorem hardReset_params : (hardReset s).params = s.params := rfl
@[simp] theorem hardReset_irqEn : (hardReset s).irqEn = false := rfl
@[simp] theorem hardReset_ivinjEn : (hardReset s).ivinjEn = false := rfl
@[simp] theorem hardReset_ivinjLock : (hardReset s).ivinjLock = false := rfl
@[simp] theorem hardReset_busy : (hardReset s).busy = false := rfl
@[simp] theorem hardReset_done : (hardReset s).done = false := rfl
@[simp] theorem hardReset_accErr : (hardReset s).accErr = false := rfl
@[simp] theorem hardReset_keyValid : (hardReset s).keyValid = false := rfl
@[simp] theorem hardReset_rngFail : (hardReset s).rngFail = false := rfl
@[simp] theorem hardReset_err : (hardReset s).err = none := rfl
@[simp] theorem hardReset_curcmd : (hardReset s).curcmd = 0 := rfl
@[simp] theorem hardReset_srcAddr : (hardReset s).srcAddr = 0 := rfl
@[simp] theorem hardReset_srcLen : (hardReset s).srcLen = 0 := rfl
@[simp] theorem hardReset_dstAddr : (hardReset s).dstAddr = 0 := rfl
@[simp] theorem hardReset_auxAddr : (hardReset s).auxAddr = 0 := rfl
@[simp] theorem hardReset_outLen : (hardReset s).outLen = 0 := rfl
@[simp] theorem hardReset_aesKey : (hardReset s).aesKey = Vector.replicate 8 0 := rfl
@[simp] theorem hardReset_keySize : (hardReset s).keySize = 0 := rfl
@[simp] theorem hardReset_keyMode : (hardReset s).keyMode = 0 := rfl
@[simp] theorem hardReset_hkeyLen : (hardReset s).hkeyLen = 0 := rfl
@[simp] theorem hardReset_hkey : (hardReset s).hkey = Vector.replicate 16 0 := rfl
@[simp] theorem hardReset_iv : (hardReset s).iv = Vector.replicate 4 0 := rfl
@[simp] theorem hardReset_dmem : (hardReset s).dmem = [] := rfl
@[simp] theorem hardReset_entropy : (hardReset s).entropy = s.entropy := rfl
@[simp] theorem hardReset_draws : (hardReset s).draws = s.draws := rfl
@[simp] theorem hardReset_resets : (hardReset s).resets = s.resets + 1 := rfl
@[simp] theorem hardReset_turns : (hardReset s).turns = s.turns := rfl
@[simp] theorem hardReset_rdata : (hardReset s).rdata = s.rdata := rfl

/-! The fields of `clearKeys s`. -/

@[simp] theorem clearKeys_params : (clearKeys s).params = s.params := rfl
@[simp] theorem clearKeys_irqEn : (clearKeys s).irqEn = s.irqEn := rfl
@[simp] theorem clearKeys_ivinjEn : (clearKeys s).ivinjEn = s.ivinjEn := rfl
@[simp] theorem clearKeys_ivinjLock : (clearKeys s).ivinjLock = s.ivinjLock := rfl
@[simp] theorem clearKeys_busy : (clearKeys s).busy = s.busy := rfl
@[simp] theorem clearKeys_done : (clearKeys s).done = s.done := rfl
@[simp] theorem clearKeys_accErr : (clearKeys s).accErr = s.accErr := rfl
@[simp] theorem clearKeys_keyValid : (clearKeys s).keyValid = false := rfl
@[simp] theorem clearKeys_rngFail : (clearKeys s).rngFail = s.rngFail := rfl
@[simp] theorem clearKeys_err : (clearKeys s).err = s.err := rfl
@[simp] theorem clearKeys_curcmd : (clearKeys s).curcmd = s.curcmd := rfl
@[simp] theorem clearKeys_srcAddr : (clearKeys s).srcAddr = s.srcAddr := rfl
@[simp] theorem clearKeys_srcLen : (clearKeys s).srcLen = s.srcLen := rfl
@[simp] theorem clearKeys_dstAddr : (clearKeys s).dstAddr = s.dstAddr := rfl
@[simp] theorem clearKeys_auxAddr : (clearKeys s).auxAddr = s.auxAddr := rfl
@[simp] theorem clearKeys_outLen : (clearKeys s).outLen = s.outLen := rfl
@[simp] theorem clearKeys_aesKey : (clearKeys s).aesKey = Vector.replicate 8 0 := rfl
@[simp] theorem clearKeys_keySize : (clearKeys s).keySize = 0 := rfl
@[simp] theorem clearKeys_keyMode : (clearKeys s).keyMode = 0 := rfl
@[simp] theorem clearKeys_hkeyLen : (clearKeys s).hkeyLen = 0 := rfl
@[simp] theorem clearKeys_hkey : (clearKeys s).hkey = Vector.replicate 16 0 := rfl
@[simp] theorem clearKeys_iv : (clearKeys s).iv = s.iv := rfl
@[simp] theorem clearKeys_dmem : (clearKeys s).dmem = s.dmem := rfl
@[simp] theorem clearKeys_entropy : (clearKeys s).entropy = s.entropy := rfl
@[simp] theorem clearKeys_draws : (clearKeys s).draws = s.draws := rfl
@[simp] theorem clearKeys_resets : (clearKeys s).resets = s.resets := rfl
@[simp] theorem clearKeys_turns : (clearKeys s).turns = s.turns := rfl
@[simp] theorem clearKeys_rdata : (clearKeys s).rdata = s.rdata := rfl

end Sys2Proof.Machine
end

