-- ==== Sys2Proof/Laws/Memory.lean ====
section
/-! SUPPORT. The data memory: reading after writing, and the canonical form that every write keeps. -/

namespace Sys2Proof.Machine

/-- Reading the byte just written gives the value written. -/
theorem read_write_same (m : Memory) (a : Nat) (v : Byte) : (m.write a v).read a = some v := by
  induction m with
  | nil => simp [Memory.write, Memory.read]
  | cons c m ih =>
    obtain ⟨b, w⟩ := c
    by_cases hlt : a < b
    · simp [Memory.write, Memory.read, hlt]
    · by_cases heq : a = b
      · simp [Memory.write, Memory.read, heq]
      · simp [Memory.write, Memory.read, hlt, heq, ih]

/-- Writing one byte leaves every other byte alone. -/
theorem read_write_other (m : Memory) {a b : Nat} (v : Byte) (h : b ≠ a) : (m.write a v).read b = m.read b := by
  induction m with
  | nil => simp [Memory.write, Memory.read, h]
  | cons c m ih =>
    obtain ⟨d, w⟩ := c
    by_cases hlt : a < d
    · simp [Memory.write, Memory.read, hlt, h]
    · by_cases heq : a = d
      · subst heq
        simp [Memory.write, Memory.read, h]
      · simp [Memory.write, Memory.read, hlt, heq, ih]

/-- What a byte reads after a write of a byte string: the string inside the bytes written, the old value elsewhere. -/
theorem read_writeBytes (m : Memory) (a : Nat) (out : Bytes) (b : Nat) :
    (m.writeBytes a out).read b = if a ≤ b ∧ b < a + out.length then out[b - a]? else m.read b := by
  induction out generalizing m a with
  | nil => simp [Memory.writeBytes]
  | cons v vs ih =>
    rw [Memory.writeBytes, ih]
    rcases Nat.lt_trichotomy b a with h | h | h
    · rw [if_neg (by omega), if_neg (by omega), read_write_other _ _ (by omega)]
    · subst h
      rw [if_neg (by omega), if_pos (by simp), read_write_same]
      simp
    · obtain ⟨k, rfl⟩ : ∃ k, b = a + 1 + k := ⟨b - (a + 1), by omega⟩
      have hk : a + 1 + k - a = k + 1 := by omega
      by_cases hin : k < vs.length
      · rw [if_pos (by omega), if_pos (by simp; omega), hk]
        simp
      · rw [if_neg (by omega), if_neg (by simp; omega), read_write_other _ _ (by omega)]

/-- One write keeps the addresses strictly rising, above any bound below the address written. -/
theorem risesFrom_write {m : Memory} {l : Option Nat} (a : Nat) (v : Byte) (h : Memory.risesFrom l m = true)
    (hl : ∀ x, l = some x → x < a) : Memory.risesFrom l (m.write a v) = true := by
  induction m generalizing l with
  | nil => cases l <;> simp_all [Memory.write, Memory.risesFrom]
  | cons c m ih =>
    obtain ⟨b, w⟩ := c
    have htail : Memory.risesFrom (some b) m = true := by
      cases l <;> simp_all [Memory.risesFrom]
    by_cases hlt : a < b
    · cases l <;> simp_all [Memory.write, Memory.risesFrom]
    · by_cases heq : a = b
      · subst heq
        cases l <;> simp_all [Memory.write, Memory.risesFrom]
      · have hrec := ih htail (fun x hx => by cases hx; omega)
        rw [Memory.write, if_neg hlt, if_neg heq]
        cases l <;> simp_all [Memory.risesFrom]

/-- One write keeps the canonical form. -/
theorem wf_write {m : Memory} (a : Nat) (v : Byte) (h : m.wf = true) : (m.write a v).wf = true :=
  risesFrom_write a v h (by simp)

/-- Writing a byte string keeps the canonical form. -/
theorem wf_writeBytes {m : Memory} (a : Nat) (out : Bytes) (h : m.wf = true) : (m.writeBytes a out).wf = true := by
  induction out generalizing m a with
  | nil => exact h
  | cons v vs ih => exact ih _ (wf_write a v h)

/-- Memory right after reset is in canonical form. -/
theorem wf_empty : Memory.wf [] = true := rfl

/-- The addresses listed after one write: those listed before, and the one written. -/
theorem mem_write {m : Memory} {a : Nat} {v : Byte} {c : Host.Cell} (h : c ∈ m.write a v) : c ∈ m ∨ c.1 = a := by
  induction m with
  | nil => simp_all [Memory.write]
  | cons d m ih =>
    obtain ⟨b, w⟩ := d
    unfold Memory.write at h
    split at h
    · rcases List.mem_cons.mp h with rfl | h
      · exact .inr rfl
      · exact .inl h
    · split at h
      · rcases List.mem_cons.mp h with rfl | h
        · exact .inr rfl
        · exact .inl (List.mem_cons_of_mem _ h)
      · rcases List.mem_cons.mp h with rfl | h
        · exact .inl (List.mem_cons_self ..)
        · exact (ih h).imp (List.mem_cons_of_mem _) id

/-- The addresses listed after writing a byte string: those listed before, and those written. -/
theorem mem_writeBytes {m : Memory} {a : Nat} {out : Bytes} {c : Host.Cell} (h : c ∈ m.writeBytes a out) :
    c ∈ m ∨ a ≤ c.1 ∧ c.1 < a + out.length := by
  induction out generalizing m a with
  | nil => exact .inl h
  | cons v vs ih =>
    rcases ih h with h | h
    · rcases mem_write h with h | h
      · exact .inl h
      · exact .inr ⟨by omega, by simp; omega⟩
    · exact .inr ⟨by omega, by simp; omega⟩

/-- Reading a byte depends on the data memory and the number of resets alone. -/
theorem byteAt_congr {s t : State} (hd : t.dmem = s.dmem) (hr : t.resets = s.resets) (a : Nat) :
    t.byteAt a = s.byteAt a := by
  simp [State.byteAt, hd, hr]

/-- A byte inside the bytes written reads the byte of the string. -/
theorem byteAt_written {s t : State} {a : Nat} {out : Bytes} (hd : t.dmem = s.dmem.writeBytes a out) {k : Nat}
    (hk : k < out.length) : t.byteAt (a + k) = out[k] := by
  simp [State.byteAt, hd, read_writeBytes, hk]

/-- A byte outside the bytes written reads as before. -/
theorem byteAt_outside {s t : State} {a : Nat} {out : Bytes} (hd : t.dmem = s.dmem.writeBytes a out)
    (hr : t.resets = s.resets) {b : Nat} (hb : ¬ (a ≤ b ∧ b < a + out.length)) : t.byteAt b = s.byteAt b := by
  simp [State.byteAt, hd, hr, read_writeBytes, hb]

/-- `MemRead` reads as many bytes as asked. -/
@[simp] theorem memRead_length (s : State) (a n : Nat) : (memRead s a n).length = n := by simp [memRead]

/-- `MemRead(a, n)[k] = DMEM[a + k]`. -/
theorem memRead_getElem (s : State) (a n : Nat) {k : Nat} (hk : k < (memRead s a n).length) :
    (memRead s a n)[k] = s.byteAt (a + k) := by
  simp [memRead]

/-- A region that holds a byte string reads as that string. -/
theorem memRead_of_holdsAt {t : State} {a : Nat} {out : Bytes}
    (h : ∀ k (hk : k < out.length), t.byteAt (a + k) = out[k]) : memRead t a out.length = out := by
  apply List.ext_getElem
  · simp
  · intro k h1 h2
    rw [memRead_getElem, h k h2]

end Sys2Proof.Machine
end

