-- ==== Sys2Proof/Laws/Lengths.lean ====
section
/-! SUPPORT. The lengths of what the functions of the units give, and the values of the spec's constants. -/

namespace Sys2Proof.Machine

@[simp] theorem blk_eq : Config.blk = 16 := rfl
@[simp] theorem hdrLen_eq : Config.hdrLen = 5 := rfl
@[simp] theorem ivLen_eq : Config.ivLen = 16 := rfl
@[simp] theorem tagLen_eq : Config.tagLen = 20 := rfl
@[simp] theorem minEnv_eq : Config.minEnv = 41 := rfl
@[simp] theorem hkeyMax_eq : Config.hkeyMax = 64 := rfl

/-- The source region has `SRC_LEN` bytes. -/
@[simp] theorem sourceBytes_length (s : State) : (sourceBytes s).length = s.srcLen.toNat := by
  simp [sourceBytes, srcLength]

/-- Byte `k` of the source region. -/
theorem sourceBytes_getElem (s : State) {k : Nat} (h : k < (sourceBytes s).length) :
    (sourceBytes s)[k] = s.byteAt (s.srcAddr.toNat + k) :=
  memRead_getElem ..

/-- The tag region has 20 bytes. -/
@[simp] theorem tagBytes_length (s : State) : (tagBytes s).length = 20 := by simp [tagBytes]

/-- `IVREG` has 16 bytes. -/
@[simp] theorem ivBytes_length (s : State) : (ivBytes s).length = 16 := by
  simp [ivBytes, registerBytes, List.length_flatMap, wordLE]

@[simp] theorem xorBytes_length (a b : Bytes) : (xorBytes a b).length = min a.length b.length := by simp [xorBytes]

@[simp] theorem repeated_length (n : Nat) (v : Byte) : (repeated n v).length = n := by simp [repeated]

@[simp] theorem chunks_length (k m : Nat) (p : Bytes) : (chunks k m p).length = m := by
  induction m generalizing p <;> simp [chunks, *]

/-- Every piece of a string of `m` times `k` bytes has `k` bytes. -/
theorem chunks_piece_length {k m : Nat} {p : Bytes} (h : p.length = k * m) : ∀ c ∈ chunks k m p, c.length = k := by
  induction m generalizing p with
  | zero => simp [chunks]
  | succ m ih =>
    intro c hc
    rw [Nat.mul_succ] at h
    simp only [chunks, List.mem_cons] at hc
    rcases hc with rfl | hc
    · simp; omega
    · exact ih (by simp; omega) c hc

/-- `SHA1` gives 20 bytes. -/
@[simp] theorem sha1_length (m : Bytes) : (sha1 m).length = 20 := by simp [sha1, sha1Digest, wordBE]

/-- `HMAC_SHA1` gives 20 bytes. -/
@[simp] theorem hmacSha1_length (k m : Bytes) : (hmacSha1 k m).length = 20 := sha1_length _

@[simp] theorem aesEnc_length (K b : Bytes) : (aesEnc K b).length = 16 := rfl

@[simp] theorem aesDec_length (K b : Bytes) : (aesDec K b).length = 16 := rfl

theorem cbcEncBlocks_length (K : Bytes) (ps : List Bytes) :
    ∀ prev, (cbcEncBlocks K prev ps).length = 16 * ps.length := by
  induction ps with
  | nil => intro; rfl
  | cons p ps ih => intro prev; simp [cbcEncBlocks, ih]; omega

theorem cbcDecBlocks_length (K : Bytes) (cs : List Bytes) : ∀ prev : Bytes, prev.length = 16 →
    (∀ c ∈ cs, c.length = 16) → (cbcDecBlocks K prev cs).length = 16 * cs.length := by
  induction cs with
  | nil => intros; rfl
  | cons c cs ih =>
    intro prev hp hc
    simp [cbcDecBlocks, hp, ih c (hc c (by simp)) (fun d hd => hc d (by simp [hd]))]
    omega

/-- `CBC_Enc` gives as many bytes as the plaintext's whole blocks. -/
theorem cbcEnc_length (K iv p : Bytes) : (cbcEnc K iv p).length = 16 * (p.length / 16) := by
  simp [cbcEnc, cbcEncBlocks_length]

/-- `CBC_Dec` of whole blocks gives as many bytes. -/
theorem cbcDec_length {K iv c : Bytes} (hi : iv.length = 16) (hc : c.length % 16 = 0) :
    (cbcDec K iv c).length = c.length := by
  rw [cbcDec, cbcDecBlocks_length _ _ _ hi, chunks_length]
  · simp; omega
  · exact chunks_piece_length (by simp; omega)

/-- `Pad` gives the next multiple of 16. -/
theorem padBytes_length (d : Bytes) : (padBytes d).length = 16 * (d.length / 16 + 1) := by
  simp [padBytes, padLength]; omega

/-- `Unpad` never makes a string longer. -/
theorem unpadBytes_length {z : UnpadZero} {d p : Bytes} (h : unpadBytes z d = .ok p) : p.length ≤ d.length := by
  unfold unpadBytes at h
  repeat' split at h
  all_goals cases h
  all_goals simp

/-- `HexEnc` gives two characters a byte. -/
theorem hexEncode_length (d : Bytes) : (hexEncode d).length = 2 * d.length := by
  simp [hexEncode, List.length_flatMap]; omega

/-- The binary envelope has 41 bytes and the padded plaintext. -/
theorem sealEnvelope_length {K H iv p : Bytes} (hi : iv.length = 16) :
    (sealEnvelope K H iv p).length = 41 + 16 * (p.length / 16 + 1) := by
  simp [sealEnvelope, sealMessage, hi, cbcEnc_length, padBytes_length]; omega

end Sys2Proof.Machine
end

