-- ==== Sys2Proof/Laws/Ops.lean ====
section
/-! SUPPORT. One lemma for each shared operation that says once everything it can do. -/

namespace Sys2Proof.Machine

/-- The completion with `E_OK` and an output whose length fits `OUT_LEN`. -/
theorem complete_ok_spec (s : State) {out : Bytes} (h : out.length < 2 ^ 32) :
    EndsOk s (complete (.ok out) s) out ∧ Unchanged s (complete (.ok out) s) := by
  refine ⟨⟨rfl, rfl, rfl, ?_, ?_, ?_⟩, ?_⟩
  · simpa using h
  · intro k hk
    exact byteAt_written (s := s) (complete_ok_dmem ..) hk
  · intro b hb
    exact byteAt_outside (s := s) (complete_ok_dmem ..) (complete_ok_resets ..) hb
  · simp [Unchanged, SameKeyRegisters, SameOperands, SameOutside, NoDraw]

/-- The completion with an error code. -/
theorem complete_error_spec (s : State) (e : Failure) :
    EndsWith s (complete (.error e) s) e ∧ Unchanged s (complete (.error e) s) :=
  ⟨⟨rfl, rfl, rfl, rfl, fun b => byteAt_congr rfl rfl b⟩, by
    simp [Unchanged, SameKeyRegisters, SameOperands, SameOutside, NoDraw]⟩

/-- Every command ends with its stages' failure or with its body. -/
theorem runCommand_cases (c : Checks) (r : Except Failure Bytes) (s : State) :
    (∃ e, c.firstFailure s = some e ∧ runCommand c r s = complete (.error e) s) ∨
    (c.firstFailure s = none ∧ runCommand c r s = complete r s) := by
  unfold runCommand
  cases h : c.firstFailure s with
  | none => exact .inr ⟨rfl, rfl⟩
  | some e => exact .inl ⟨e, rfl, rfl⟩

/-- A draw takes one answer and changes nothing but the answers to come or the count of the draws. -/
theorem entropyDraw_cases (s : State) :
    (∃ r rs, s.entropy = r :: rs ∧ entropyDraw s = (r, { s with entropy := rs })) ∨
    (s.entropy = [] ∧ entropyDraw s = (Config.entropyAnswer s.draws, { s with draws := s.draws + 1 })) := by
  unfold entropyDraw
  cases h : s.entropy with
  | nil => exact .inr ⟨rfl, rfl⟩
  | cons r rs => exact .inl ⟨r, rs, rfl, rfl⟩

/-- A command with a draw ends with its stages' failure, without a draw because of the latch, with a failed draw, or with
its body on the 16 bytes drawn. -/
theorem runDrawingCommand_cases (c : Checks) (body : Bytes → Except Failure Bytes) (s : State) :
    (∃ e, c.firstFailure s = some e ∧ runDrawingCommand c body s = complete (.error e) s) ∨
    (c.firstFailure s = none ∧ s.rngFail = true ∧ runDrawingCommand c body s = complete (.error .entropy) s) ∨
    (c.firstFailure s = none ∧ s.rngFail = false ∧ (entropyDraw s).1 = none ∧
      runDrawingCommand c body s = complete (.error .entropy) { (entropyDraw s).2 with rngFail := true }) ∨
    (∃ b, c.firstFailure s = none ∧ s.rngFail = false ∧ (entropyDraw s).1 = some b ∧
      runDrawingCommand c body s = complete (body b.toList) (entropyDraw s).2) := by
  unfold runDrawingCommand finishDraw
  cases hf : c.firstFailure s with
  | some e => exact .inl ⟨e, rfl, rfl⟩
  | none =>
    cases hr : s.rngFail with
    | true => exact .inr (.inl ⟨rfl, rfl, by simp⟩)
    | false =>
      cases hd : (entropyDraw s).1 with
      | none => exact .inr (.inr (.inl ⟨rfl, rfl, rfl, by simp⟩))
      | some b => exact .inr (.inr (.inr ⟨b, rfl, rfl, rfl, by simp⟩))

/-- The stages S2 to S7 all pass. -/
theorem firstFailure_eq_none (c : Checks) (s : State) :
    c.firstFailure s = none ↔
      ¬ (c.injected = true ∧ injectionEnabled s = false) ∧ ¬ (c.keyed = true ∧ s.keyValid = false) ∧
      inRange s s.srcAddr.toNat s.srcLen.toNat = true ∧ c.badLength = false ∧ c.target.fits s = true ∧
      c.target.overlapsSource s = false := by
  unfold Checks.firstFailure
  repeat' split
  all_goals simp_all

/-- The first stage that raises, with every stage before it passed. -/
theorem firstFailure_cases {c : Checks} {s : State} {e : Failure} (h : c.firstFailure s = some e) :
    (e = .cmd ∧ c.injected = true ∧ injectionEnabled s = false) ∨
    (e = .noKey ∧ c.keyed = true ∧ s.keyValid = false) ∨
    (e = .range ∧ inRange s s.srcAddr.toNat s.srcLen.toNat = false) ∨
    (e = .format ∧ c.badLength = true) ∨
    (e = .range ∧ c.target.fits s = false) ∨
    (e = .overlap ∧ c.target.overlapsSource s = true) := by
  unfold Checks.firstFailure at h
  repeat' split at h
  all_goals simp_all

/-- A place in the data memory lies inside it. -/
theorem placeOf_dmem {s : State} {w : Width} {off d : Nat} (h : placeOf s w off = .dmem d) :
    inRange s d w.bytes = true := by
  unfold placeOf at h
  repeat' split at h
  all_goals simp_all

/-- One host access: a register read, a DMEM read, a register write, a DMEM write, or a dropped access. -/
theorem hostAccess_cases (a : Access) (s : State) :
    (∃ r, hostAccess a s = { s with rdata := regRead s r }) ∨
    (∃ (d : Nat) (w : Width), s.busy = false ∧ inRange s d w.bytes = true ∧
      hostAccess a s = { s with rdata := le32 (memRead s d w.bytes) }) ∨
    (∃ r v, hostAccess a s = regWrite r v s) ∨
    (∃ (d : Nat) (w : Width) (v : Word), s.busy = false ∧ inRange s d w.bytes = true ∧
      hostAccess a s = memWrite d ((wordLE v).take w.bytes) s) ∨
    hostAccess a s = dropRead s ∨ hostAccess a s = dropAccess s := by
  cases a with
  | read w off =>
    rw [hostAccess]
    cases hp : placeOf s w off.toNat with
    | register r => exact .inl ⟨r, rfl⟩
    | dropped => exact .inr (.inr (.inr (.inr (.inl rfl))))
    | dmem d =>
      rw [readPlace]
      split
      · exact .inr (.inr (.inr (.inr (.inl rfl))))
      · exact .inr (.inl ⟨d, w, by simp_all, placeOf_dmem hp, rfl⟩)
  | write w off v =>
    rw [hostAccess]
    cases hp : placeOf s w off.toNat with
    | register r => exact .inr (.inr (.inl ⟨r, v, rfl⟩))
    | dropped => exact .inr (.inr (.inr (.inr (.inr rfl))))
    | dmem d =>
      rw [writePlace]
      split
      · exact .inr (.inr (.inr (.inr (.inr rfl))))
      · exact .inr (.inr (.inr (.inl ⟨d, w, v, by simp_all, placeOf_dmem hp, rfl⟩)))

/-- One step: the engine's turn, a host access or a reset, each on the state with that turn taken. -/
theorem step_cases (s : State) :
    (s.turns = [] ∧ step s = engineTurn s) ∨
    (∃ ts, s.turns = .engine :: ts ∧ step s = engineTurn { s with turns := ts }) ∨
    (∃ a ts, s.turns = .host a :: ts ∧ step s = .next (hostAccess a { s with turns := ts })) ∨
    (∃ ts, s.turns = .rst :: ts ∧ step s = .next (hardReset { s with turns := ts })) := by
  unfold step
  cases h : s.turns with
  | nil => exact .inl ⟨rfl, rfl⟩
  | cons t ts =>
    cases t with
    | engine => exact .inr (.inl ⟨ts, rfl, rfl⟩)
    | host a => exact .inr (.inr (.inl ⟨a, ts, rfl, rfl⟩))
    | rst => exact .inr (.inr (.inr ⟨ts, rfl, rfl⟩))

end Sys2Proof.Machine
end

