-- ==== Sys2Proof/Laws/Stages.lean ====
section
/-! SUPPORT. The check stages, once: the terms of `Sys2Proof.Safety` against the checks that the meanings run. -/

namespace Sys2Proof.Machine

/-- The checks that the meaning of a command runs; `none` for the three commands of 40_control.md. -/
def checksOf (i : Instr) (s : State) : Option Checks :=
  match i with
  | .nop | .keyCommit | .keyClear => none
  | .pad => some (padChecks s)
  | .unpad => some (unpadChecks s)
  | .aesCbcEnc | .aesCbcDec => some (cipherChecks s)
  | .hmacGen => some hmacGenChecks
  | .hmacVerify => some hmacVerifyChecks
  | .hexEnc => some (hexEncChecks s)
  | .hexDec => some (hexDecChecks s)
  | .sealBin => some (sealChecks false false s)
  | .sealHex => some (sealChecks true false s)
  | .sealInj => some (sealChecks false true s)
  | .sealHexInj => some (sealChecks true true s)
  | .openBin => some (openChecks false s)
  | .openHex => some (openChecks true s)

/-- Every command with checks runs them, and then its body. -/
theorem exec_checks (i : Instr) (s : State) {c : Checks} (h : checksOf i s = some c) :
    (∃ r, exec i s = .next (runCommand c r s)) ∨ (∃ b, exec i s = .next (runDrawingCommand c b s)) := by
  cases i <;> simp [checksOf] at h <;> subst h
  case sealBin => exact .inr ⟨_, rfl⟩
  case sealHex => exact .inr ⟨_, rfl⟩
  all_goals exact .inl ⟨_, rfl⟩

/-- Each stage raises exactly when its check does. -/
theorem stages_iff {i : Instr} {s : State} {c : Checks} (h : checksOf i s = some c) :
    (failsS2 i s ↔ c.injected = true ∧ injectionEnabled s = false) ∧
    (failsS3 i s ↔ c.keyed = true ∧ s.keyValid = false) ∧
    (failsS4 i s ↔ inRange s s.srcAddr.toNat s.srcLen.toNat = false) ∧
    (failsS5 i s ↔ c.badLength = true) ∧
    (failsS6 i s ↔ c.target.fits s = false) ∧
    (failsS7 i s ↔ c.target.overlapsSource s = true) := by
  have hm : s.srcLen.toNat % 16 < 16 := Nat.mod_lt _ (by decide)
  cases i <;> simp [checksOf] at h <;> subst h <;>
    simp [failsS2, failsS3, failsS4, failsS5, failsS6, failsS7, usesInjectedIv, needsKey, readsSource, badLength, maxOut,
      padChecks, unpadChecks, cipherChecks, hmacGenChecks, hmacVerifyChecks, hexEncChecks, hexDecChecks, sealChecks,
      openChecks, Target.fits, Target.overlapsSource, inRange, overlap, srcLength, padLength, wireFactor,
      envelopeLength] <;>
    (try constructor) <;> (try constructor) <;> intros <;> omega

/-- A command passes its stages exactly when its checks find no failure. -/
theorem passesStages_iff {i : Instr} {s : State} {c : Checks} (h : checksOf i s = some c) :
    PassesStages i s ↔ c.firstFailure s = none := by
  obtain ⟨h2, h3, h4, h5, h6, h7⟩ := stages_iff h
  rw [firstFailure_eq_none, PassesStages, h2, h3, h4, h5, h6, h7]
  simp

/-- The output region of a command that passes its stages lies in the data memory. -/
theorem output_fits {i : Instr} {s : State} {m : Nat} (hp : PassesStages i s)
    (hm : maxOut i s.srcLen.toNat = some m) : s.dstAddr.toNat + m ≤ s.params.dmemBytes := by
  have := hp.2.2.2.2.1
  simp only [failsS6, hm, not_or, not_exists, not_and] at this
  exact Nat.not_lt.mp (this.1 m rfl)

/-- A command that passes its stages and whose body succeeds ends with `E_OK` and its output. -/
theorem runCommand_ok {i : Instr} {s : State} {c : Checks} {out : Bytes} {m : Nat} (h : checksOf i s = some c)
    (hp : PassesStages i s) (hl : s.params.Legal) (hm : maxOut i s.srcLen.toNat = some m) (hlen : out.length ≤ m) :
    EndsOk s (runCommand c (.ok out) s) out ∧ Unchanged s (runCommand c (.ok out) s) := by
  have hf := (passesStages_iff h).1 hp
  have := output_fits hp hm
  simp only [runCommand, hf]
  exact complete_ok_spec s (by have := hl.2.2; omega)

/-- A command that passes its stages and whose body raises ends with that error. -/
theorem runCommand_error {i : Instr} {s : State} {c : Checks} {e : Failure} (h : checksOf i s = some c)
    (hp : PassesStages i s) :
    EndsWith s (runCommand c (.error e) s) e ∧ Unchanged s (runCommand c (.error e) s) := by
  have hf := (passesStages_iff h).1 hp
  simp only [runCommand, hf]
  exact complete_error_spec s e

end Sys2Proof.Machine
end

