-- ==== Sys2Proof/Laws/Exec.lean ====
section
/-! SUPPORT. What a command can do, once: the six ways in which `exec` ends, with an output that fits the data memory. -/

namespace Sys2Proof.Machine

/-- The output is empty or fits the data memory at `DST_ADDR`; an error is none of `KEY_COMMIT`'s. -/
def OutFits (s : State) (r : Except Failure Bytes) : Prop :=
  match r with
  | .ok out => out = [] ∨ s.dstAddr.toNat + out.length ≤ s.params.dmemBytes
  | .error e => e ≠ .config

/-- `HexDec` halves the length. -/
theorem hexDecode_length {t d : Bytes} (h : hexDecode t = .ok d) : d.length = t.length / 2 := by
  induction t using hexDecode.induct generalizing d with
  | case1 => simp [hexDecode] at h; subst h; rfl
  | case2 x => simp [hexDecode] at h
  | case3 hi lo t h0 l0 d0 hd hh hl ih => 
    simp_all [hexDecode]; subst h; simp; omega
  | case4 hi lo t hx ih =>
    rw [hexDecode] at h
    split at h
    · rename_i a b c; exact (hx _ _ _ a b c).elim
    · cases h
/-- `HexDec` raises `E_FORMAT` only. -/
theorem hexDecode_error {t : Bytes} {e : Failure} (h : hexDecode t = .error e) : e = .format := by
  cases t with
  | nil => simp [hexDecode] at h
  | cons a t => cases t with
    | nil => simp [hexDecode] at h; exact h.symm
    | cons b t => 
      rw [hexDecode] at h
      split at h
      · cases h
      · cases h; rfl

/-- `Unpad` raises `E_FORMAT` only. -/
theorem unpadBytes_error {z : UnpadZero} {d : Bytes} {e : Failure} (h : unpadBytes z d = .error e) : e = .format := by
  unfold unpadBytes at h
  repeat' split at h
  all_goals cases h <;> rfl

/-- The plaintext of an envelope is no longer than its ciphertext. -/
theorem openEnvelope_length {z : UnpadZero} {K H env p : Bytes} (h : openEnvelope z K H env = .ok p)
    (hl : 41 ≤ env.length) : p.length ≤ env.length - 41 := by
  unfold openEnvelope at h
  simp only at h
  split at h
  · cases h
  · split at h
    · cases h
    · rename_i _ h2
      have := unpadBytes_length h
      simp only [ne_eq, not_not, blk_eq] at h2
      rw [cbcDec_length (by simp; omega) h2] at this
      simp at this; omega

/-- Opening an envelope never raises `E_CONFIG`. -/
theorem openEnvelope_error {z : UnpadZero} {K H env : Bytes} {e : Failure}
    (h : openEnvelope z K H env = .error e) : e ≠ .config := by
  unfold openEnvelope at h
  simp only at h
  split at h
  · cases h; simp
  · split at h
    · cases h; simp
    · rw [unpadBytes_error h]; simp

/-- A command with checks completes with a result that fits. -/
theorem runCommand_fits (i : Instr) (s : State) {c : Checks} {r : Except Failure Bytes} (h : checksOf i s = some c)
    (hb : PassesStages i s → OutFits s r) : ∃ r', OutFits s r' ∧ runCommand c r s = complete r' s := by
  rcases runCommand_cases c r s with ⟨e, h1, h2⟩ | ⟨h1, h2⟩
  · refine ⟨.error e, ?_, h2⟩
    rcases firstFailure_cases h1 with h | h | h | h | h | h <;> simp [OutFits, h.1]
  · exact ⟨r, hb ((passesStages_iff h).2 h1), h2⟩

/-- An output of at most `MAXOUT` bytes fits. -/
theorem fits_of_le {i : Instr} {s : State} {m n : Nat} (hp : PassesStages i s)
    (hm : maxOut i s.srcLen.toNat = some m) (h : n ≤ m) : s.dstAddr.toNat + n ≤ s.params.dmemBytes := by
  have := output_fits hp hm; omega

/-- The output of `OPEN` fits. -/
theorem openBody_fits {hex : Bool} {s : State} (hp : PassesStages (openForm hex) s) : OutFits s (openBody hex s) := by
  have h5 := hp.2.2.2.1
  unfold openBody
  cases hr : readWire hex (sourceBytes s) with
  | error e =>
    cases hex <;> simp [readWire] at hr
    simp [OutFits, hexDecode_error hr]
  | ok env =>
    have hlen : 41 ≤ env.length ∧ maxOut (openForm hex) s.srcLen.toNat = some (env.length - 41) := by
      cases hex <;> simp [readWire] at hr
      · subst hr; simp [failsS5, badLength, openForm] at h5; simp [openForm, maxOut, h5]
      · have := hexDecode_length hr
        simp [failsS5, badLength, openForm] at h5
        simp at this
        simp [openForm, maxOut, this, h5]
    dsimp only
    cases ho : openEnvelope s.params.unpadZero (aesKeyBytes s) (hmacKeyBytes s) env with
    | error e => exact openEnvelope_error ho
    | ok p => exact .inr (fits_of_le hp hlen.2 (openEnvelope_length ho hlen.1))

/-- The output of `SEAL` fits. -/
theorem sealBody_fits {hex inj : Bool} {s s' : State} {iv : Bytes} (hp : PassesStages (sealForm hex inj) s)
    (hi : iv.length = 16) (h1 : s'.params = s.params) (h2 : s'.srcLen = s.srcLen) (h3 : s'.dstAddr = s.dstAddr) :
    OutFits s' (sealBody hex s' iv) := by
  simp only [OutFits, sealBody, h1, h3]
  right
  cases hex <;> cases inj <;> refine fits_of_le hp rfl ?_ <;>
    simp [wireForm, hexEncode_length, sealEnvelope_length hi, h2] <;> omega

/-- The ways in which a command can end. -/
inductive ExecEnds (i : Instr) (s : State) : State → Prop
  /-- completion, with nothing changed beside it -/
  | plain (r : Except Failure Bytes) (h : OutFits s r) : i ≠ .keyClear → ExecEnds i s (complete r s)
  /-- `KEY_COMMIT` of an illegal configuration -/
  | refusedKey : s.keyValid = false → i = .keyCommit → keyConfigLegal s = false →
      ExecEnds i s (complete (.error .config) s)
  /-- `KEY_COMMIT` of a legal configuration -/
  | committedKey : s.keyValid = false → i = .keyCommit → keyConfigLegal s = true →
      ExecEnds i s (complete (.ok []) { s with keyValid := true })
  /-- `KEY_CLEAR` -/
  | clearedKey : i = .keyClear → ExecEnds i s (complete (.ok []) (clearKeys s))
  /-- a failed draw -/
  | failedDraw : i = .sealBin ∨ i = .sealHex →
      ExecEnds i s (complete (.error .entropy) { (entropyDraw s).2 with rngFail := true })
  /-- a draw that answered -/
  | draw (r : Except Failure Bytes) (h : OutFits (entropyDraw s).2 r) : i = .sealBin ∨ i = .sealHex →
      ExecEnds i s (complete r (entropyDraw s).2)

/-- A draw leaves what the range checks read. -/
theorem entropyDraw_operands (s : State) :
    (entropyDraw s).2.params = s.params ∧ (entropyDraw s).2.srcLen = s.srcLen ∧
    (entropyDraw s).2.dstAddr = s.dstAddr := by
  rcases entropyDraw_cases s with ⟨r, rs, h, he⟩ | ⟨h, he⟩ <;> rw [he] <;> simp

/-- A draw leaves what the body of `SEAL` reads. -/
theorem sealBody_draw (hex : Bool) (s : State) (iv : Bytes) :
    sealBody hex (entropyDraw s).2 iv = sealBody hex s iv := by
  rcases entropyDraw_cases s with ⟨r, rs, h, he⟩ | ⟨h, he⟩ <;> rw [he] <;> rfl

/-- A command that runs its checks and then a body without a draw. -/
theorem exec_ends_run {i : Instr} {s : State} {c : Checks} {r : Except Failure Bytes}
    (he : exec i s = .next (runCommand c r s)) (hc : checksOf i s = some c) (hi : i ≠ .keyClear)
    (hb : PassesStages i s → OutFits s r) : ∃ t, exec i s = .next t ∧ ExecEnds i s t := by
  obtain ⟨r', h1, h2⟩ := runCommand_fits i s hc hb
  exact ⟨_, he, h2 ▸ .plain r' h1 hi⟩

/-- A `SEAL` with a draw. -/
theorem exec_ends_drawn (hex : Bool) (s : State) :
    ∃ t, exec (sealForm hex false) s = .next t ∧ ExecEnds (sealForm hex false) s t := by
  have he : exec (sealForm hex false) s = .next (sealDrawn hex s) := by cases hex <;> rfl
  have hc : checksOf (sealForm hex false) s = some (sealChecks hex false s) := by cases hex <;> rfl
  have hi : sealForm hex false ≠ .keyClear := by cases hex <;> simp [sealForm]
  have hd : sealForm hex false = .sealBin ∨ sealForm hex false = .sealHex := by cases hex <;> simp [sealForm]
  refine ⟨_, he, ?_⟩
  unfold sealDrawn
  rcases runDrawingCommand_cases (sealChecks hex false s) (sealBody hex s) s with
    ⟨e, h1, h2⟩ | ⟨h1, h2, h3⟩ | ⟨h1, h2, h3, h4⟩ | ⟨b, h1, h2, h3, h4⟩
  · rw [h2]
    refine .plain _ ?_ hi
    rcases firstFailure_cases h1 with h | h | h | h | h | h <;> simp [OutFits, h.1]
  · exact h3 ▸ .plain _ (by simp [OutFits]) hi
  · exact h4 ▸ .failedDraw hd
  · obtain ⟨g1, g2, g3⟩ := entropyDraw_operands s
    have hp := (passesStages_iff hc).2 h1
    exact h4 ▸ .draw _ (sealBody_draw hex s _ ▸ sealBody_fits hp (by simp) g1 g2 g3) hd

/-- Every command answers a next state, in one of the ways above. -/
theorem exec_ends (i : Instr) (s : State) : ∃ t, exec i s = .next t ∧ ExecEnds i s t := by
  cases i with
  | nop => exact ⟨_, rfl, .plain _ (.inl rfl) (by simp)⟩
  | keyCommit =>
    simp only [exec, execKeyCommit]
    cases hv : s.keyValid with
    | true => exact ⟨_, by simp, .plain (.ok []) (.inl rfl) (by simp)⟩
    | false =>
      cases hk : keyConfigLegal s with
      | true => exact ⟨_, by simp, .committedKey hv rfl hk⟩
      | false => exact ⟨_, by simp, .refusedKey hv rfl hk⟩
  | keyClear => exact ⟨_, rfl, .clearedKey rfl⟩
  | pad =>
    exact exec_ends_run rfl rfl (by simp) fun hp => .inr (fits_of_le hp rfl (by rw [padBytes_length]; simp; omega))
  | unpad =>
    refine exec_ends_run rfl rfl (by simp) fun hp => ?_
    cases h : unpadBytes s.params.unpadZero (sourceBytes s) with
    | ok p => exact .inr (fits_of_le hp rfl (by simpa using unpadBytes_length h))
    | error e => simp [OutFits, unpadBytes_error h]
  | aesCbcEnc =>
    exact exec_ends_run rfl rfl (by simp) fun hp => .inr (fits_of_le hp rfl (by rw [cbcEnc_length]; simp; omega))
  | aesCbcDec =>
    refine exec_ends_run rfl rfl (by simp) fun hp => .inr (fits_of_le hp rfl ?_)
    have := hp.2.2.2.1
    simp [failsS5, badLength] at this
    rw [cbcDec_length (by simp) (by simpa using this)]
    simp
  | hmacGen => exact exec_ends_run rfl rfl (by simp) fun hp => .inr (fits_of_le hp rfl (by simp))
  | hmacVerify =>
    refine exec_ends_run rfl rfl (by simp) fun hp => ?_
    unfold verifyBody
    split <;> simp [OutFits]
  | hexEnc =>
    exact exec_ends_run rfl rfl (by simp) fun hp => .inr (fits_of_le hp rfl (by simp [hexEncode_length]))
  | hexDec =>
    refine exec_ends_run rfl rfl (by simp) fun hp => ?_
    cases h : hexDecode (sourceBytes s) with
    | ok p => exact .inr (fits_of_le hp rfl (by rw [hexDecode_length h]; simp))
    | error e => simp [OutFits, hexDecode_error h]
  | sealBin => exact exec_ends_drawn false s
  | sealHex => exact exec_ends_drawn true s
  | sealInj =>
    exact exec_ends_run rfl rfl (by simp) fun hp => sealBody_fits (hex := false) (inj := true) hp (by simp) rfl rfl rfl
  | sealHexInj =>
    exact exec_ends_run rfl rfl (by simp) fun hp => sealBody_fits (hex := true) (inj := true) hp (by simp) rfl rfl rfl
  | openBin => exact exec_ends_run rfl rfl (by simp) fun hp => openBody_fits (hex := false) hp
  | openHex => exact exec_ends_run rfl rfl (by simp) fun hp => openBody_fits (hex := true) hp

end Sys2Proof.Machine
end

