-- ==== Sys2Proof/Laws/PerInstr.lean ====
section
/-! SUPPORT. The per-instruction family `EncodesItsRow`: the command is well formed, its word has legal fields, and the bits
of its row of the opcode table decode to it. -/

namespace Sys2Proof.Laws.EncodesItsRow

/-- The command is well formed, its word is legal (30_encoding.md R124), and its 32 table bits decode to it (R126). -/
def Statement (i : Instr) : Prop :=
  i.wellFormed = true ∧ (commandFields (encode i)).legal = true ∧ decodeTableWord 32 (encode i).toNat = some i

theorem nop : Statement .nop := ⟨by decide, by decide, by decide⟩
theorem keyCommit : Statement .keyCommit := ⟨by decide, by decide, by decide⟩
theorem keyClear : Statement .keyClear := ⟨by decide, by decide, by decide⟩
theorem pad : Statement .pad := ⟨by decide, by decide, by decide⟩
theorem unpad : Statement .unpad := ⟨by decide, by decide, by decide⟩
theorem aesCbcEnc : Statement .aesCbcEnc := ⟨by decide, by decide, by decide⟩
theorem aesCbcDec : Statement .aesCbcDec := ⟨by decide, by decide, by decide⟩
theorem hmacGen : Statement .hmacGen := ⟨by decide, by decide, by decide⟩
theorem hmacVerify : Statement .hmacVerify := ⟨by decide, by decide, by decide⟩
theorem hexEnc : Statement .hexEnc := ⟨by decide, by decide, by decide⟩
theorem hexDec : Statement .hexDec := ⟨by decide, by decide, by decide⟩
theorem sealBin : Statement .sealBin := ⟨by decide, by decide, by decide⟩
theorem sealHex : Statement .sealHex := ⟨by decide, by decide, by decide⟩
theorem sealInj : Statement .sealInj := ⟨by decide, by decide, by decide⟩
theorem sealHexInj : Statement .sealHexInj := ⟨by decide, by decide, by decide⟩
theorem openBin : Statement .openBin := ⟨by decide, by decide, by decide⟩
theorem openHex : Statement .openHex := ⟨by decide, by decide, by decide⟩

end Sys2Proof.Laws.EncodesItsRow
end

