-- ==== Sys2Proof/Tests/Slice0.lean ====
section
/-! SUPPORT. The model's own tests: ill-formed command words that the checks refuse, the decoding of words written out from
the spec, the check values and some of the vectors of 95_test_vectors.md (each named in its docstring; every expected value
is the spec's), and for every statement a concrete state and operands that meet its hypotheses. -/

namespace Sys2Proof.Tests

-- One theorem at a time: many evaluations at once ask for more threads than the check's memory limit allows.
set_option Elab.async false

open Sys2Proof.Machine

/-! ## Well-formedness -/

/-- A reserved `OP` is not legal (30_encoding.md R124). -/
theorem test_reserved_op_is_ill_formed :
    (CommandFields.mk 0x03 false false 0).opAssigned = false ∧ (CommandFields.mk 0x03 false false 0).legal = false := by
  decide

/-- A nonzero `RSV` is not legal (R124). -/
theorem test_nonzero_rsv_is_ill_formed :
    (CommandFields.mk 0x50 false false 1).rsvZero = false ∧ (CommandFields.mk 0x50 false false 1).legal = false := by
  decide

/-- `HEX` is not allowed for `PAD`, nor `IVSRC` for `OPEN` (R123). -/
theorem test_flag_is_ill_formed :
    (CommandFields.mk 0x10 true false 0).flagsAllowed = false ∧ (CommandFields.mk 0x10 true false 0).legal = false ∧
    (CommandFields.mk 0x51 false true 0).flagsAllowed = false ∧ (CommandFields.mk 0x51 false true 0).legal = false := by
  decide

/-- Every command's word is legal and is its own (R123). -/
theorem test_commands_are_well_formed :
    (Instr.all.all fun i => i.wellFormed && (commandFields (encode i)).legal) = true ∧ (Instr.all.map encode).Nodup := by
  decide

/-! ## Decoding: the words of the table of R123, written out bit by bit from the diagram of R121 -/

theorem test_decode_nop : decode 0b00000000000000000000000000000000 = .ok .nop := by decide

theorem test_decode_keyCommit : decode 0b00000000000000000000000000000001 = .ok .keyCommit := by decide

theorem test_decode_keyClear : decode 0b00000000000000000000000000000010 = .ok .keyClear := by decide

theorem test_decode_pad : decode 0b00000000000000000000000000010000 = .ok .pad := by decide

theorem test_decode_unpad : decode 0b00000000000000000000000000010001 = .ok .unpad := by decide

theorem test_decode_aesCbcEnc : decode 0b00000000000000000000000000100000 = .ok .aesCbcEnc := by decide

theorem test_decode_aesCbcDec : decode 0b00000000000000000000000000100001 = .ok .aesCbcDec := by decide

theorem test_decode_hmacGen : decode 0b00000000000000000000000000110000 = .ok .hmacGen := by decide

theorem test_decode_hmacVerify : decode 0b00000000000000000000000000110001 = .ok .hmacVerify := by decide

theorem test_decode_hexEnc : decode 0b00000000000000000000000001000000 = .ok .hexEnc := by decide

theorem test_decode_hexDec : decode 0b00000000000000000000000001000001 = .ok .hexDec := by decide

theorem test_decode_sealBin : decode 0b00000000000000000000000001010000 = .ok .sealBin := by decide

theorem test_decode_sealHex : decode 0b00000000000000000000000101010000 = .ok .sealHex := by decide

theorem test_decode_sealInj : decode 0b00000000000000000000001001010000 = .ok .sealInj := by decide

theorem test_decode_sealHexInj : decode 0b00000000000000000000001101010000 = .ok .sealHexInj := by decide

theorem test_decode_openBin : decode 0b00000000000000000000000001010001 = .ok .openBin := by decide

theorem test_decode_openHex : decode 0b00000000000000000000000101010001 = .ok .openHex := by decide

/-- Vectors C11 to C20: illegal words, each refused by name. -/
theorem test_decode_illegal_words :
    decode 0x00000003 = .error .reservedOp ∧ decode 0x00000012 = .error .reservedOp ∧
    decode 0x00000110 = .error .flagNotAllowed ∧ decode 0x00000251 = .error .flagNotAllowed ∧
    decode 0x00000252 = .error .reservedOp ∧ decode 0x00000450 = .error .nonzeroReserved ∧
    decode 0x80000000 = .error .nonzeroReserved ∧ decode 0xFFFFFFFF = .error .nonzeroReserved ∧
    decode 0x00000101 = .error .flagNotAllowed ∧ decode 0x0000022F = .error .reservedOp := by
  decide

/-- The first byte of a command word is bits 7:0 (20_memory.md R82); no other length decodes (R120). -/
theorem test_decode_bytes :
    decodeBytes [0x50, 0x03, 0x00, 0x00] = .ok .sealHexInj ∧ decodeBytes [0x50, 0x03] = .error .wrongLength ∧
    decodeTableWord 32 0x151 = some .openHex ∧ decodeTableWord 32 0x152 = none := by
  decide

/-- Mnemonics are case-insensitive and carry their flags as suffixes (R128). -/
theorem test_mnemonics :
    commandOfMnemonic "seal.hex.inj" = some .sealHexInj ∧ commandOfMnemonic "OPEN.HEX" = some .openHex ∧
    commandOfMnemonic "OPEN.INJ" = none := by
  decide +kernel

/-! ## Small states -/

/-- The `n` bytes of a hexadecimal literal, the first byte leftmost (00_scope.md R9). -/
def hexBytes (n v : Nat) : Bytes := (List.range n).map fun i => BitVec.ofNat 8 (v >>> (8 * (n - 1 - i)))

/-- A byte string at `SRC_ADDR` = 0, with `DST_ADDR` = 0x400 and `AUX_ADDR` = 0x800 (the conventions of the vectors). -/
def withSource (src : Bytes) (s : State) : State :=
  { s with
    dmem := s.dmem.writeBytes 0 src
    srcLen := BitVec.ofNat 32 src.length
    dstAddr := 0x400
    auxAddr := 0x800 }

/-- The words of a byte string, for consecutive registers (20_memory.md R82). -/
def registerWords (n : Nat) (s : Bytes) : Vector Word n := Vector.ofFn fun i => le32 (s.drop (4 * i.val))

/-- Keys loaded but not committed. -/
def loaded (key hkey : Bytes) : State :=
  { State.reset with
    aesKey := registerWords 8 key
    keySize := BitVec.ofNat 16 (8 * key.length)
    keyMode := 0x01
    hkey := registerWords 16 hkey
    hkeyLen := BitVec.ofNat 16 hkey.length
    iv := registerWords 4 (hexBytes 16 0xa0a1a2a3a4a5a6a7a8a9aaabacadaeaf)
    ivinjEn := true }

/-- Key set K1 of the vectors, not committed. -/
def k1Loaded : State :=
  loaded (hexBytes 16 0x000102030405060708090a0b0c0d0e0f) (hexBytes 16 0x202122232425262728292a2b2c2d2e2f)

/-- Key set K1 of the vectors. -/
def k1 : State := { k1Loaded with keyValid := true }

/-- Key set K2 of the vectors, not committed. -/
def k2Loaded : State :=
  loaded (hexBytes 32 0x000102030405060708090a0b0c0d0e0f101112131415161718191a1b1c1d1e1f)
    (hexBytes 32 0x404142434445464748494a4b4c4d4e4f505152535455565758595a5b5c5d5e5f)

/-- The state after a step that answers a next state. -/
def after (o : Host.Outcome State Fault Refusal) : State :=
  match o with
  | .next t => t
  | .fault _ => State.reset
  | .refused _ => State.reset

/-- The accepted command word `w` and the engine's step. -/
def run (w : Nat) (s : State) : State := after (step (s.withFetchWord 32 w))

/-- `ERR`, `OUT_LEN` and the output of a completed command. -/
def result (t : State) : Option Failure × Nat × Bytes :=
  (t.err, t.outLen.toNat, memRead t t.dstAddr.toNat t.outLen.toNat)

/-- The output of vector S1. -/
def envelopeS1 : Bytes :=
  hexBytes 38 0x0000000000a0a1a2a3a4a5a6a7a8a9aaabacadaeafe315209ed0e7c94f74a65c99f6eadc1e0a ++
    hexBytes 19 0x377bcb5695c46f2a63005a9459d4bf44320737

/-- The text of vector S1H. -/
def textS1H : Bytes :=
  hexBytes 38 0x3030303030303030303041304131413241334134413541364137413841394141414241434144 ++
    hexBytes 38 0x4145414645333135323039454430453743393446373441363543393946364541444331453041 ++
    hexBytes 38 0x3337374243423536393543343646324136333030354139343539443442463434333230373337

/-- The text of vector S2. -/
def textS2 : Bytes :=
  hexBytes 38 0x3030303030303030303041304131413241334134413541364137413841394141414241434144 ++
    hexBytes 38 0x4145414634313334343944374139354333464642423042393338373236343734374238433041 ++
    hexBytes 38 0x3938434145303339353839344436343734423835333943313333343037303045383237424446

/-- The output of vector S3. -/
def envelopeS3 : Bytes :=
  hexBytes 38 0x0000000000a0a1a2a3a4a5a6a7a8a9aaabacadaeaffef1a8b625f0c43a7108b623a6fb90cac2 ++
    hexBytes 35 0x4c21ac8f08ae8c6ead8959159c4e0b59c8c842d80744554c00f78dd14f88fb75ca063c

/-- The text of program P5. -/
def textHi : Bytes :=
  hexBytes 38 0x3030303030303030303043304331433243334334433543364337433843394341434243434344 ++
    hexBytes 38 0x4345434633393043413836463643384546304146314133313835433646433341343432373531 ++
    hexBytes 38 0x4337383330394137343244373034423435444435364238393446323638373546323230323237

/-- The 16 bytes of an `ok` answer of the entropy source. -/
def answer (v : Nat) : Option (Vector Byte 16) := some (Vector.ofFn fun i => BitVec.ofNat 8 (v >>> (8 * (15 - i.val))))

/-! ## The units: check values of the spec -/

/-- 42_cipher.md R198: words of the key schedule of the FIPS 197 AES-128 key. -/
theorem test_key_schedule :
    let w := keySchedule (hexBytes 16 0x2b7e151628aed2a6abf7158809cf4f3c)
    w.length = 44 ∧ w.getD 4 zeroColumn = ⟨0xa0, 0xfa, 0xfe, 0x17⟩ ∧ w.getD 7 zeroColumn = ⟨0x2a, 0x6c, 0x76, 0x05⟩ ∧
    w.getD 43 zeroColumn = ⟨0xb6, 0x63, 0x0c, 0xa6⟩ := by
  decide +kernel

/-- 42_cipher.md R201, AES-128, and R200. -/
theorem test_aes128 :
    aesEnc (hexBytes 16 0x000102030405060708090a0b0c0d0e0f) (hexBytes 16 0x00112233445566778899aabbccddeeff) =
      hexBytes 16 0x69c4e0d86a7b0430d8cdb78070b4c55a ∧
    aesDec (hexBytes 16 0x000102030405060708090a0b0c0d0e0f) (hexBytes 16 0x69c4e0d86a7b0430d8cdb78070b4c55a) =
      hexBytes 16 0x00112233445566778899aabbccddeeff := by
  decide +kernel

/-- 42_cipher.md R204, AES-256 in CBC mode, two blocks. -/
theorem test_cbc_aes256 :
    cbcEnc (hexBytes 32 0x603deb1015ca71be2b73aef0857d77811f352c073b6108d72d9810a30914dff4)
      (hexBytes 16 0x000102030405060708090a0b0c0d0e0f)
      (hexBytes 32 0x6bc1bee22e409f96e93d7e117393172aae2d8a571e03ac9c9eb76fac45af8e51) =
    hexBytes 32 0xf58c4c04d6e5f1ba779eabfb5f7bfbd69cfc4e967edb808d679f777bc6702c7d := by
  decide +kernel

/-- 43_mac.md R234 and R236: `SHA1("abc")`, and RFC 2202 case 2. -/
theorem test_sha1_and_hmac :
    sha1 [0x61, 0x62, 0x63] = hexBytes 20 0xa9993e364706816aba3e25717850c26c9cd0d89d ∧
    hmacSha1 [0x4a, 0x65, 0x66, 0x65] (hexBytes 28 0x7768617420646f2079612077616e7420666f72206e6f7468696e673f) =
      hexBytes 20 0xeffcdf6ae5eb2fa2d27416d5f184df9c259a7c79 := by
  decide +kernel

/-! ## The commands, one step each -/

/-- Vector C1. -/
theorem test_nop : regRead (run 0x00000000 State.reset) .status = 0x00000002 := by decide +kernel

/-- An illegal word, vector C11: `E_CMD` is `ERR` = 8. -/
theorem test_illegal_word : regRead (run 0x00000003 State.reset) .status = 0x00000802 := by decide +kernel

/-- Vector C2. -/
theorem test_keyCommit : regRead (run 0x00000001 k2Loaded) .status = 0x0000000A := by decide +kernel

/-- Vector C3: 192-bit keys are refused. -/
theorem test_keyCommit_192 : (run 0x00000001 { k1Loaded with keySize := 192 }).err = some .config := by decide +kernel

/-- Vector C10. -/
theorem test_keyClear :
    let t := run 0x00000002 k1
    t.keyValid = false ∧ regRead t .keycfg = 0 ∧ regRead t .hkeyLen = 0 ∧ regRead t (.iv 0) = 0xA3A2A1A0 ∧
    t.aesKey = Vector.replicate 8 0 := by
  decide +kernel

/-- Vector PD2. -/
theorem test_pad :
    result (run 0x00000010 (withSource [0x41] State.reset)) =
      (none, 16, hexBytes 16 0x410f0f0f0f0f0f0f0f0f0f0f0f0f0f0f) := by
  decide +kernel

/-- Vector PD4: a whole block is appended. -/
theorem test_pad_full_block :
    result (run 0x00000010 (withSource (hexBytes 16 0x4142434445464748494a4b4c4d4e4f50) State.reset)) =
      (none, 32, hexBytes 32 0x4142434445464748494a4b4c4d4e4f5010101010101010101010101010101010) := by
  decide +kernel

/-- Vector U12: the pad bytes before the last are not read. -/
theorem test_unpad : result (run 0x00000011 (withSource [0x41, 0x42, 0x43, 0x02] State.reset)) = (none, 2, [0x41, 0x42]) := by
  decide +kernel

/-- Vectors U10 and U11: a last byte 0 under each value of `UNPAD_ZERO`. -/
theorem test_unpad_zero :
    result (run 0x00000011 (withSource (hexBytes 5 0x4142430000) State.reset)) = (none, 5, hexBytes 5 0x4142430000) ∧
    result (run 0x00000011 { withSource (hexBytes 5 0x4142430000) State.reset with
      params := { State.reset.params with unpadZero := .empty } }) = (none, 0, []) := by
  decide +kernel

/-- Vector A7. -/
theorem test_aesCbcEnc :
    result (run 0x00000020 (withSource (hexBytes 16 0) k1)) = (none, 16, hexBytes 16 0x5e18d1fef61d087ec0a33ed734a7918f) := by
  decide +kernel

/-- Vector A11: `E_NOKEY` comes before `E_FORMAT`. -/
theorem test_aesCbcEnc_no_key : (run 0x00000020 (withSource (hexBytes 15 0) k1Loaded)).err = some .noKey := by
  decide +kernel

/-- Vector A9. -/
theorem test_aesCbcDec :
    result (run 0x00000021 (withSource (hexBytes 16 0) k1)) = (none, 16, hexBytes 16 0xdbbc8b02c85d6a0c2c59120e34498109) := by
  decide +kernel

/-- Vector A12: `E_FORMAT` comes before `E_RANGE` of the destination. -/
theorem test_aesCbcDec_length :
    (run 0x00000021 { withSource (hexBytes 15 0) k1 with dstAddr := 16380 }).err = some .format := by
  decide +kernel

/-- Vector M4. -/
theorem test_hmacGen :
    result (run 0x00000030 (withSource [0x61, 0x62, 0x63] k1)) =
      (none, 20, hexBytes 20 0xcfda404a690f5171072cd37f58bb5ac171d8b731) := by
  decide +kernel

/-- Vector M12: source and destination overlap. -/
theorem test_hmacGen_overlap :
    (run 0x00000030 { withSource [0x61, 0x62, 0x63] k1 with dstAddr := 2 }).err = some .overlap := by
  decide +kernel

/-- "abc" at 0 and a tag at 0x800 under K1. -/
def tagged (tag : Bytes) : State := memWrite 0x800 tag (withSource [0x61, 0x62, 0x63] k1)

/-- Vector M7. -/
theorem test_hmacVerify :
    result (run 0x00000031 (tagged (hexBytes 20 0xcfda404a690f5171072cd37f58bb5ac171d8b731))) = (none, 0, []) := by
  decide +kernel

/-- Vector M8: the last bit of the tag differs. -/
theorem test_hmacVerify_bad_tag :
    (run 0x00000031 (tagged (hexBytes 20 0xcfda404a690f5171072cd37f58bb5ac171d8b730))).err = some .auth := by
  decide +kernel

/-- Vector X1. -/
theorem test_hexEnc :
    result (run 0x00000040 (withSource [0x00, 0xab, 0x7f] State.reset)) = (none, 6, hexBytes 6 0x303041423746) := by
  decide +kernel

/-- Vector X4: lower and upper case. -/
theorem test_hexDec :
    result (run 0x00000041 (withSource (hexBytes 6 0x303061623746) State.reset)) = (none, 3, [0x00, 0xab, 0x7f]) := by
  decide +kernel

/-- Vector X7: "0G". -/
theorem test_hexDec_bad_character : (run 0x00000041 (withSource [0x30, 0x47] State.reset)).err = some .format := by
  decide +kernel

/-- Vector S1. -/
theorem test_sealInj : result (run 0x00000250 (withSource [] k1)) = (none, 57, envelopeS1) := by decide +kernel

/-- Vector C21: the injected IV is not enabled. -/
theorem test_sealInj_not_enabled : (run 0x00000250 { withSource [] k1 with ivinjEn := false }).err = some .cmd := by
  decide +kernel

/-- Vector S2. -/
theorem test_sealHexInj : result (run 0x00000350 (withSource [0x41] k1)) = (none, 114, textS2) := by decide +kernel

/-- Vector S5: the drawn IV of S2 gives the output of S2. -/
theorem test_sealHex :
    result (run 0x00000150 { withSource [0x41] k1 with entropy := [answer 0xa0a1a2a3a4a5a6a7a8a9aaabacadaeaf] }) =
      (none, 114, textS2) := by
  decide +kernel

/-- Program P5: the envelope of "hi" under K2 with the drawn IV c0c1…cf. -/
theorem test_sealHex_p5 :
    result (run 0x00000150 { withSource [0x68, 0x69] { k2Loaded with keyValid := true } with
      entropy := [answer 0xc0c1c2c3c4c5c6c7c8c9cacbcccdcecf] }) = (none, 114, textHi) := by
  decide +kernel

/-- The binary form of vector S5 has the first bytes of S1 and takes one draw. -/
theorem test_sealBin :
    let t := run 0x00000050 { withSource [] k1 with entropy := [answer 0xa0a1a2a3a4a5a6a7a8a9aaabacadaeaf, none] }
    result t = (none, 57, envelopeS1) ∧ t.entropy = [none] := by
  decide +kernel

/-- Vectors S7 and S8: a failed draw, and no draw while `RNGFAIL` = 1. -/
theorem test_sealBin_entropy_failure :
    let t := run 0x00000050 { withSource [0x41] k1 with entropy := [none] }
    let u := run 0x00000050 { t with entropy := [answer 0] }
    t.err = some .entropy ∧ t.rngFail = true ∧ t.entropy = [] ∧ u.err = some .entropy ∧ u.entropy = [answer 0] := by
  decide +kernel

/-- Vector O3b. -/
theorem test_openBin :
    result (run 0x00000051 (withSource envelopeS3 k1)) = (none, 16, hexBytes 16 0x000102030405060708090a0b0c0d0e0f) := by
  decide +kernel

/-- Vector O5: the header is covered by the signature. -/
theorem test_openBin_tampered_header : (run 0x00000051 (withSource (0x01 :: envelopeS3.tail) k1)).err = some .auth := by
  decide +kernel

/-- Vector O2. -/
theorem test_openHex : result (run 0x00000151 (withSource textS2 k1)) = (none, 1, [0x41]) := by decide +kernel

/-- Vector O4: the last character is changed to "0". -/
theorem test_openHex_tampered : (run 0x00000151 (withSource (textS2.dropLast ++ [0x30]) k1)).err = some .auth := by
  decide +kernel

/-! ## The host interface -/

/-- The state after host accesses, one step each. -/
def hostRun (s : State) (ts : List Turn) : State :=
  ts.foldl (fun s t => after (step { s with turns := [t] })) s

/-- Program P1, lines 1 to 3, 7 and 8: the bus encodings of the pseudo-instructions (30_encoding.md R129, R130). -/
theorem test_pseudo_instructions :
    pseudoSetConfig 128 = [.host (.write .word 0x00060 0x00010080)] ∧
    pseudoLoadHmacKey (hexBytes 16 0x202122232425262728292a2b2c2d2e2f) =
      [.host (.write .word 0x00080 0x23222120), .host (.write .word 0x00084 0x27262524),
       .host (.write .word 0x00088 0x2B2A2928), .host (.write .word 0x0008C 0x2F2E2D2C),
       .host (.write .word 0x00064 0x00000010)] ∧
    pseudoFill 0 (hexBytes 5 0x68656c6c6f) =
      [.host (.write .word 0x10000 0x6C6C6568), .host (.write .byte 0x10004 0x6F)] ∧
    pseudoCmd .sealHexInj = [.host (.write .word 0x00010 0x00000350)] := by
  decide +kernel

/-- Vector B9: key registers and `CMD` read 0, `KEYCFG` and `HKEY_LEN` read back. -/
theorem test_key_registers_read_zero :
    let s := hostRun State.reset ([hostWrite (.aesKey 0) 0x03020100, hostWrite .hkeyLen 4] ++ pseudoSetConfig 128)
    (hostRun s [hostRead (.aesKey 0)]).rdata = 0 ∧ (hostRun s [hostRead .hkeyLen]).rdata = 4 ∧
    (hostRun s [hostRead .keycfg]).rdata = 0x00010080 ∧ s.aesKey[0] = 0x03020100 ∧ s.accErr = false := by
  decide +kernel

/-- Vector B13: while busy only `STATUS` is written, the operands hold, and the command uses them. -/
theorem test_busy_accesses_are_dropped :
    let s := { withSource [0x41] State.reset with curcmd := 0x10, busy := true }
    let t := hostRun s [hostWrite .cmd 0, hostWrite .srcLen 0, dmemRead .word 0]
    let u := hostRun t [hostWrite .status 4]
    (hostRun s [hostRead .status]).rdata = 1 ∧ t.rdata = 0 ∧ t.srcLen = 1 ∧ t.accErr = true ∧ u.accErr = false ∧
    (hostRun u [.engine, hostRead .status]).rdata = 2 ∧ (hostRun u [.engine, hostRead .outLen]).rdata = 0x10 := by
  decide +kernel

/-- Program P5, lines 6 to 9: the lock wins and stays. -/
theorem test_ctrl_lock :
    (hostRun State.reset [hostWrite .ctrl 6, hostRead .ctrl]).rdata = 4 ∧
    (hostRun State.reset [hostWrite .ctrl 6, hostWrite .ctrl 2, hostRead .ctrl]).rdata = 4 := by
  decide +kernel

/-- A 32-bit write followed by 8- and 16-bit reads (20_memory.md R82, R83). -/
theorem test_lanes :
    (hostRun State.reset [dmemWrite .word 4 0x44332211, dmemRead .byte 5]).rdata = 0x22 ∧
    (hostRun State.reset [dmemWrite .word 4 0x44332211, dmemRead .half 6]).rdata = 0x4433 ∧
    (hostRun State.reset [dmemWrite .word 4 0x44332211, dmemWrite .byte 5 0xAB, dmemRead .word 4]).rdata = 0x4433AB11 := by
  decide +kernel

/-- A misaligned access, a narrow register access, a reserved offset (vector B8) and the first byte beyond the default DMEM
are dropped (20_memory.md R85, R86). -/
theorem test_dropped_accesses :
    (hostRun State.reset [.host (.read .half 0x10001)]).accErr = true ∧
    (hostRun State.reset [.host (.read .byte 0x0000C)]).accErr = true ∧
    (hostRun State.reset [.host (.read .word 0x00028)]).accErr = true ∧
    (hostRun State.reset [.host (.write .byte 0x14000 1)]).accErr = true ∧
    (hostRun State.reset [.host (.write .byte 0x13FFF 1)]).accErr = false := by
  decide +kernel

/-- Vector B12: the interrupt output. -/
theorem test_irq :
    let s := hostRun State.reset [hostWrite .ctrl 1, hostWrite .cmd 0]
    irq s = false ∧ irq (hostRun s [.engine]) = true ∧ irq (hostRun s [.engine, hostWrite .status 2]) = false := by
  decide +kernel

/-- Vectors RS2 and RS3: reset clears the latches and the keys, and discards a pending command. -/
theorem test_reset :
    let s := { k1 with ivinjLock := true, ivinjEn := false, rngFail := true, accErr := true, irqEn := true, busy := true }
    hostRun s [.rst] = { State.reset with resets := 1 } := by
  decide +kernel

/-- The state after reset meets the invariant (70_reset_and_hazards.md R340). -/
theorem test_reset_inv : State.reset.Inv := by decide

/-- What the registers read after reset (10_state.md R33). -/
theorem test_reset_registers :
    regRead State.reset .id = 0x53543201 ∧ regRead State.reset .dmemSize = 0x00004000 ∧
    regRead State.reset .ctrl = 0 ∧ regRead State.reset .status = 0 ∧ irq State.reset = false := by
  decide

/-! ## Witnesses: concrete states and operands that meet the hypotheses of the statements -/

/-- A busy engine with the command word `w`, its turn next. -/
def busyWith (w : Word) (s : State) : State := { s with curcmd := w, busy := true }

theorem witness_IllegalWordsEndWithCommandError :
    State.reset.busy = false ∧ (busyWith 0x03 State.reset).busy = true ∧ (busyWith 0x03 State.reset).turns = [] ∧
    ({ busyWith 0x03 State.reset with turns := [.engine, .rst] }).turns = .engine :: [.rst] ∧
    decode (busyWith 0x03 State.reset).curcmd = .error .reservedOp := by
  decide

theorem witness_StepRunsTheDecodedCommand :
    (busyWith 0x10 State.reset).busy = true ∧ decode (busyWith 0x10 State.reset).curcmd = .ok .pad ∧
    (busyWith 0x10 State.reset).turns = [] ∧ ({ busyWith 0x10 State.reset with turns := [.engine] }).turns = [.engine] ∧
    State.reset.busy = false ∧ engineHasTurn State.reset = true ∧
    ({ State.reset with turns := [hostRead .id] }).turns = [hostRead .id] := by
  decide

theorem witness_EveryAcceptedCommandCompletes :
    (busyWith 0x31 State.reset).busy = true ∧ engineHasTurn (busyWith 0x31 State.reset) = true ∧
    (run 0x31 State.reset).err ≠ none := by
  decide +kernel

theorem witness_EveryStepKeepsTheInvariant :
    State.reset.Inv ∧ step State.reset = .next State.reset ∧ (busyWith 0x10 k1).Inv ∧
    step (busyWith 0x00 k1) = .next (complete (.ok []) (busyWith 0x00 k1)) := by
  refine ⟨by decide, rfl, by decide, rfl⟩

/-- The smallest and the largest legal data memory. -/
theorem witness_ResetMeetsTheInvariant : Params.Legal ⟨64, .keep⟩ ∧ Params.Legal ⟨65536, .empty⟩ := by decide

/-- One state for each stage (the vectors C21, A11, PD13, A6, PD11 and PD10, M10 for the tag region). -/
theorem witness_FirstFailingStageDecidesTheCode :
    StageRaises .sealInj { withSource [] k1 with ivinjEn := false } .cmd ∧
    StageRaises .aesCbcEnc (withSource (hexBytes 15 0) k1Loaded) .noKey ∧
    StageRaises .pad { State.reset with srcAddr := 0xFFFFFFF0, srcLen := 0x20 } .range ∧
    StageRaises .aesCbcEnc (withSource (hexBytes 15 0) k1) .format ∧
    StageRaises .pad { State.reset with srcLen := 16, dstAddr := 16353 } .range ∧
    StageRaises .hmacVerify { withSource [0x61, 0x62, 0x63] k1 with auxAddr := 16365 } .range ∧
    StageRaises .pad { State.reset with srcLen := 16, dstAddr := 8 } .overlap := by
  refine ⟨?_, ?_, ?_, ?_, ?_, ?_, ?_⟩ <;>
    simp [StageRaises, failsS2, failsS3, failsS4, failsS5, failsS6, failsS7, usesInjectedIv, needsKey, readsSource,
      badLength, maxOut, withSource, k1, k1Loaded, loaded, hexBytes, injectionEnabled, State.reset, State.resetWith,
      Params.default]

theorem witness_KeyCommitValidatesALegalKey :
    k1Loaded.keyValid = false ∧ k1Loaded.keyMode = 0x01 ∧ k1Loaded.keySize = 128 ∧
    ({ k1Loaded with hkeyLen := 64 }).hkeyLen.toNat ≤ 64 ∧ k2Loaded.keySize = 256 := by
  decide

/-- Vectors C4, C3, C6 and C9. -/
theorem witness_KeyCommitRefusesAnIllegalKey :
    k1Loaded.keyValid = false ∧ ({ k1Loaded with keyMode := 0x02 }).keyMode ≠ 0x01 ∧
    ({ k1Loaded with keySize := 192 }).keySize ≠ 128 ∧ ({ k1Loaded with keySize := 192 }).keySize ≠ 256 ∧
    64 < ({ k1Loaded with hkeyLen := 65 }).hkeyLen.toNat ∧ k1.keyValid = true := by
  decide

theorem witness_OnlyKeyCommitRaisesConfigError :
    exec .keyCommit State.reset = .next (complete (.error .config) State.reset) ∧
    exec .nop State.reset = .next (complete (.ok []) State.reset) := by
  exact ⟨rfl, rfl⟩

theorem witness_CommittedKeyIsLocked :
    k1.busy = false ∧ k1.keyValid = true ∧ k1Loaded.busy = false ∧ k1Loaded.keyValid = false ∧
    step k1 = .next k1 ∧ resetHasTurn k1 = false ∧ (busyWith 0x02 k1).keyValid = true ∧
    step (busyWith 0x02 k1) = .next (complete (.ok []) (clearKeys (busyWith 0x02 k1))) ∧
    resetHasTurn (busyWith 0x02 k1) = false := by
  refine ⟨by decide, by decide, by decide, by decide, rfl, rfl, by decide, rfl, rfl⟩

/-- The parameters of the small states are legal. -/
theorem reset_params_legal : State.reset.params.Legal := by decide

theorem witness_PadWritesThePaddedSource :
    (withSource [0x41] State.reset).params.Legal ∧ PassesStages .pad (withSource [0x41] State.reset) ∧
    PassesStages .pad { State.reset with srcLen := 16, dstAddr := 16352 } :=
  ⟨reset_params_legal, (passesStages_iff rfl).2 (by decide), (passesStages_iff rfl).2 (by decide)⟩

/-- The last byte equal to the length, less than it, and 0. -/
theorem witness_UnpadRemovesThePadBytes :
    PassesStages .unpad (withSource [0x41, 0x42, 0x43, 0x04] State.reset) ∧
    (sourceBytes (withSource [0x41, 0x42, 0x43, 0x04] State.reset)).getLast? = some 0x04 ∧
    (0x04 : Byte).toNat ≤ (withSource [0x41, 0x42, 0x43, 0x04] State.reset).srcLen.toNat ∧
    PassesStages .unpad (withSource [0x41, 0x00] State.reset) ∧
    (sourceBytes (withSource [0x41, 0x00] State.reset)).getLast? = some 0x00 :=
  ⟨(passesStages_iff rfl).2 (by decide), by decide +kernel, by decide, (passesStages_iff rfl).2 (by decide),
    by decide +kernel⟩

theorem witness_UnpadRefusesAnOverlongPad :
    PassesStages .unpad (withSource [0x02] State.reset) ∧
    (sourceBytes (withSource [0x02] State.reset)).getLast? = some 0x02 ∧
    (withSource [0x02] State.reset).srcLen.toNat < (0x02 : Byte).toNat :=
  ⟨(passesStages_iff rfl).2 (by decide), by decide +kernel, by decide⟩

theorem witness_SboxIsTheAffineInverse : (0x53 : Byte) ≠ 0 ∧ gmul 0x53 0xCA = 1 ∧ sbox 0x53 = sboxAffine 0xCA := by decide

theorem witness_AesDecInvertsAesEnc : (hexBytes 16 0x00112233445566778899aabbccddeeff).length = 16 := by decide

theorem witness_CbcDecInvertsCbcEnc :
    (hexBytes 16 0).length = 16 ∧ (hexBytes 32 0).length % 16 = 0 ∧ ([] : Bytes).length % 16 = 0 := by
  decide

theorem witness_AesCbcEncWritesTheCiphertext :
    (withSource (hexBytes 16 0) k1).params.Legal ∧ PassesStages .aesCbcEnc (withSource (hexBytes 16 0) k1) ∧
    (hexBytes 16 0).length = 16 :=
  ⟨reset_params_legal, (passesStages_iff rfl).2 (by decide), by decide⟩

theorem witness_AesCbcDecWritesThePlaintext :
    (withSource (hexBytes 16 0) k1).params.Legal ∧ PassesStages .aesCbcDec (withSource (hexBytes 16 0) k1) ∧
    (hexBytes 16 0).length = 16 :=
  ⟨reset_params_legal, (passesStages_iff rfl).2 (by decide), by decide⟩

theorem witness_ConstantTimeCompareIsEquality : (hexBytes 20 0).length = 20 ∧ (hexBytes 20 1).length = 20 := by decide

theorem witness_HmacGenWritesTheTag :
    (withSource [0x61, 0x62, 0x63] k1).params.Legal ∧ PassesStages .hmacGen (withSource [0x61, 0x62, 0x63] k1) :=
  ⟨reset_params_legal, (passesStages_iff rfl).2 (by decide)⟩

/-- The right tag and a wrong one (vectors M7 and M8), and the tag region that ends at the top. -/
theorem witness_HmacVerifyComparesTheTag :
    (∀ tag, PassesStages .hmacVerify (tagged tag)) ∧
    (let s := tagged (hexBytes 20 0xcfda404a690f5171072cd37f58bb5ac171d8b731)
     tagBytes s = hmacSha1 (hmacKeyBytes s) (sourceBytes s)) ∧
    (let s := tagged (hexBytes 20 0xcfda404a690f5171072cd37f58bb5ac171d8b730)
     tagBytes s ≠ hmacSha1 (hmacKeyBytes s) (sourceBytes s)) ∧
    PassesStages .hmacVerify { withSource [0x61] k1 with auxAddr := 16364 } :=
  ⟨fun _ => (passesStages_iff rfl).2 rfl, by decide +kernel, by decide +kernel, (passesStages_iff rfl).2 (by decide)⟩

theorem witness_HexEncWritesTheDigits :
    (withSource [0x00, 0xab] State.reset).params.Legal ∧ PassesStages .hexEnc (withSource [0x00, 0xab] State.reset) :=
  ⟨reset_params_legal, (passesStages_iff rfl).2 (by decide)⟩

/-- The boundary digits "0", "9", "A", "F", "a" and "f". -/
theorem witness_HexDecWritesTheBytes :
    (withSource [0x30, 0x39, 0x41, 0x46, 0x61, 0x66] State.reset).params.Legal ∧
    PassesStages .hexDec (withSource [0x30, 0x39, 0x41, 0x46, 0x61, 0x66] State.reset) ∧
    ∀ c ∈ sourceBytes (withSource [0x30, 0x39, 0x41, 0x46, 0x61, 0x66] State.reset), hexVal c ≠ none :=
  ⟨reset_params_legal, (passesStages_iff rfl).2 (by decide), by decide +kernel⟩

/-- The characters next to the digits: "/", ":", "@", "G", "`" and "g". -/
theorem witness_HexDecRefusesABadCharacter :
    PassesStages .hexDec (withSource [0x30, 0x2F] State.reset) ∧
    (∃ c ∈ sourceBytes (withSource [0x30, 0x2F] State.reset), hexVal c = none) ∧
    ([0x2F, 0x3A, 0x40, 0x47, 0x60, 0x67].map hexVal).all Option.isNone = true :=
  ⟨(passesStages_iff rfl).2 (by decide), by decide +kernel, by decide⟩

theorem witness_SealedEnvelopeLayout : (hexBytes 16 0xa0a1a2a3a4a5a6a7a8a9aaabacadaeaf).length = 16 := by decide

/-- Vectors S1 and S13 (the output ends at the top of the data memory). -/
theorem witness_InjectedSealWritesTheEnvelope :
    (withSource [] k1).params.Legal ∧ PassesStages .sealInj (withSource [] k1) ∧
    PassesStages .sealHexInj { withSource [] k1 with dstAddr := 16384 - 114 } :=
  ⟨reset_params_legal, (passesStages_iff rfl).2 (by decide), (passesStages_iff rfl).2 (by decide)⟩

/-- A keyed state with the entropy source's answers to come. -/
def drawing (rs : List (Option (Vector Byte 16))) : State := { withSource [0x41] k1 with entropy := rs }

theorem witness_DrawnSealWritesTheEnvelope :
    (drawing [answer 5, none]).params.Legal ∧ (drawing [answer 5, none]).rngFail = false ∧
    (drawing [answer 5, none]).entropy = answer 5 :: [none] ∧ PassesStages .sealBin (drawing [answer 5, none]) ∧
    PassesStages .sealHex (drawing [answer 5, none]) :=
  ⟨reset_params_legal, rfl, rfl, (passesStages_iff rfl).2 (by decide), (passesStages_iff rfl).2 (by decide)⟩

/-- The latched failure, a failed draw to come, and no listed answer. -/
theorem witness_EntropyFailureIsFatal :
    (∀ rs, PassesStages .sealBin (drawing rs) ∧ PassesStages .sealHex { drawing rs with rngFail := true }) ∧
    ({ drawing [] with rngFail := true }).rngFail = true ∧
    (drawing [none]).rngFail = false ∧ (drawing [none]).entropy = none :: [] ∧ (drawing []).entropy = [] :=
  ⟨fun _ => ⟨(passesStages_iff rfl).2 rfl, (passesStages_iff rfl).2 rfl⟩, rfl, rfl, rfl, rfl⟩

theorem witness_OnlyResetClearsTheLatches :
    (let s := { State.reset with rngFail := true, ivinjLock := true }
     step s = .next s ∧ resetHasTurn s = false ∧ s.rngFail = true ∧ s.ivinjLock = true) := by
  exact ⟨rfl, rfl, rfl, rfl⟩

/-- The hypotheses of the opening statements on an envelope and its plaintext, under K1. -/
def Opens (s : State) (env p : Bytes) : Prop :=
  env.drop (env.length - 20) = hmacSha1 (hmacKeyBytes s) (env.take (env.length - 20)) ∧ (env.length - 41) % 16 = 0 ∧
  unpadBytes s.params.unpadZero
    (cbcDec (aesKeyBytes s) ((env.drop 5).take 16) ((env.drop 21).take (env.length - 41))) = .ok p

/-- Vectors S1 and S1H. -/
theorem witness_OpenWritesThePlaintext :
    (withSource envelopeS1 k1).params.Legal ∧ PassesStages .openBin (withSource envelopeS1 k1) ∧
    sourceBytes (withSource envelopeS1 k1) = envelopeS1 ∧ Opens (withSource envelopeS1 k1) envelopeS1 [] ∧
    PassesStages .openHex (withSource textS1H k1) ∧
    hexDecode (sourceBytes (withSource textS1H k1)) = .ok envelopeS1 ∧ Opens (withSource textS1H k1) envelopeS1 [] := by
  refine ⟨reset_params_legal, (passesStages_iff rfl).2 (by decide +kernel), by decide +kernel, ?_,
    (passesStages_iff rfl).2 (by decide +kernel), by decide +kernel, ?_⟩ <;>
    exact ⟨by decide +kernel, by decide, by decide +kernel⟩

/-- An authentic envelope with the ciphertext `ct` (vectors O14 and O15). -/
def authentic (ct : Bytes) : Bytes :=
  let m := hexBytes 21 0xa0a1a2a3a4a5a6a7a8a9aaabacadaeaf ++ ct
  m ++ hmacSha1 (hexBytes 16 0x202122232425262728292a2b2c2d2e2f) m

/-- A bad character, a bad signature (vector O5), a bad ciphertext length (O15) and a failed unpadding (O14). -/
theorem witness_OpenChecksInTheSourcesOrder :
    (PassesStages .openHex (withSource (0x47 :: textS1H.tail) k1) ∧
      hexDecode (sourceBytes (withSource (0x47 :: textS1H.tail) k1)) = .error .format) ∧
    (PassesStages (openForm false) (withSource (0x01 :: envelopeS1.tail) k1) ∧
      readWire false (sourceBytes (withSource (0x01 :: envelopeS1.tail) k1)) = .ok (0x01 :: envelopeS1.tail) ∧
      (0x01 :: envelopeS1.tail).drop 37 ≠ hmacSha1 (hmacKeyBytes k1) ((0x01 :: envelopeS1.tail).take 37)) ∧
    (PassesStages (openForm false) (withSource (authentic [1, 2, 3, 4, 5]) k1) ∧
      readWire false (sourceBytes (withSource (authentic [1, 2, 3, 4, 5]) k1)) = .ok (authentic [1, 2, 3, 4, 5]) ∧
      (authentic [1, 2, 3, 4, 5]).drop 26 = hmacSha1 (hmacKeyBytes k1) ((authentic [1, 2, 3, 4, 5]).take 26) ∧
      ((authentic [1, 2, 3, 4, 5]).length - 41) % 16 ≠ 0) ∧
    (PassesStages (openForm false) (withSource (authentic []) k1) ∧ (authentic []).length = 41 ∧
      unpadBytes k1.params.unpadZero (cbcDec (aesKeyBytes k1) (((authentic []).drop 5).take 16)
        (((authentic []).drop 21).take 0)) = .error .format) := by
  refine ⟨⟨(passesStages_iff rfl).2 (by decide +kernel), by decide +kernel⟩,
    ⟨(passesStages_iff rfl).2 (by decide +kernel), by decide +kernel, by decide +kernel⟩,
    ⟨(passesStages_iff rfl).2 (by decide +kernel), by decide +kernel, by decide +kernel, by decide +kernel⟩,
    ⟨(passesStages_iff rfl).2 (by decide +kernel), by decide +kernel, by decide +kernel⟩⟩

/-- Vector S1 sealed, then opened at 0x800. -/
theorem witness_OpenUndoesSeal :
    let t := sealInjected false (withSource [] k1)
    exec (sealForm false true) (withSource [] k1) = .next t ∧ t.err = none ∧
    PassesStages (openForm false) { t with srcAddr := t.dstAddr, srcLen := t.outLen, dstAddr := 0x800 } :=
  ⟨rfl, by decide +kernel, (passesStages_iff rfl).2 (by decide +kernel)⟩

/-- The reserved offsets at the ends of the gaps of the map. -/
theorem witness_RegisterMapIsOneToOne :
    [0x028, 0x03C, 0x068, 0x07C, 0x0D0, 0xFFFC].map Reg.ofOffset = List.replicate 6 none ∧
    ([0x024, 0x040, 0x05C, 0x060, 0x064, 0x080, 0x0BC, 0x0C0, 0x0CC].map Reg.ofOffset).all Option.isSome = true := by
  decide

/-- One access for each clause, at a boundary. -/
theorem witness_IllegalAccessesAreDropped :
    ((0x0FFFC : BitVec 17).toNat < 0x10000 ∧ Width.half ≠ .word) ∧ (0x10002 : BitVec 17).toNat % Width.word.bytes ≠ 0 ∧
    ((0x000D0 : BitVec 17).toNat < 0x10000 ∧ Reg.ofOffset (0x000D0 : BitVec 17).toNat = none) ∧
    0x10000 + State.reset.params.dmemBytes < (0x13FFE : BitVec 17).toNat + Width.word.bytes ∧
    State.reset.params.Legal := by
  decide

theorem witness_BusyFreezesTheOperands :
    (busyWith 0x10 k1).busy = true ∧ Reg.ctrl ≠ .status ∧ 0x10000 ≤ (0x10000 : BitVec 17).toNat ∧
    (busyWith 0x10 k1).Inv ∧ (busyWith 0x10 k1).done = false := by
  decide

theorem witness_BusyAccessesDoNotChangeTheResult : (busyWith 0x10 k1).busy = true ∧ (busyWith 0x10 k1).done = false := by
  decide

theorem witness_CmdAcceptsEveryWordWhileIdle : k1.busy = false ∧ (busyWith 0x10 k1).busy = true := by decide

theorem witness_CtrlLockWins : k1.busy = false ∧ regWrite .ctrl 0x7 k1 = writeCtrl 0x7 k1 := by decide

theorem witness_OperandRegistersReadBack : k1.busy = false ∧ Reg.srcLen ≠ .srcAddr ∧ Reg.iv 3 ≠ .iv 0 := by decide

theorem witness_ReadOnlyRegistersIgnoreWrites : k1.busy = false := by decide

theorem witness_KeyConfigurationReadsBack : k1Loaded.busy = false ∧ k1Loaded.keyValid = false := by decide

/-- The last word of the default data memory. -/
theorem witness_HostLanesAreLittleEndian :
    State.reset.busy = false ∧ (0x13FFC : BitVec 17).toNat = 0x10000 + 16380 ∧ 16380 % Width.word.bytes = 0 ∧
    16380 + Width.word.bytes ≤ State.reset.params.dmemBytes := by
  decide

/-- `AES_KEY4` of K1 changed, and a byte of `HKEY4` at and above `HKEY_LEN` = 16. -/
theorem witness_UnusedKeyBytesHaveNoEffect :
    k1.keySize = 128 ∧ (∀ j : Fin 4, (k1.aesKey.set 4 0xFFFFFFFF)[j.val] = k1.aesKey[j.val]) ∧
    (let s := { k1 with aesKey := k1.aesKey.set 4 0xFFFFFFFF, hkey := k1.hkey.set 4 0xFFFFFFFF }
     s = { k1 with aesKey := s.aesKey, hkey := s.hkey } ∧ aesKeyBytes s = aesKeyBytes k1 ∧
     hmacKeyBytes s = hmacKeyBytes k1 ∧ s ≠ k1 ∧ exec .nop s = .next (complete (.ok []) s) ∧
     exec .nop k1 = .next (complete (.ok []) k1)) ∧
    (∀ (j : Fin 16) (l : Fin 4), 4 * j.val + l.val < k1.hkeyLen.toNat →
      (k1.hkey.set 4 0xFFFFFFFF)[j].extractLsb' (8 * l.val) 8 = k1.hkey[j].extractLsb' (8 * l.val) 8) := by
  refine ⟨by decide, by decide +kernel, ⟨rfl, by decide +kernel, by decide +kernel, by decide +kernel, rfl, rfl⟩,
    by decide +kernel⟩

theorem witness_IrqFollowsDone :
    exec .nop State.reset = .next (complete (.ok []) State.reset) ∧ (2 : Word).getLsbD 1 = true ∧
    State.reset.busy = false := by
  refine ⟨rfl, by decide, by decide⟩

theorem witness_ResetClearsEveryRegister : ({ k1 with turns := [.rst, .engine] }).turns = .rst :: [.engine] := by decide

/-- The boundaries of the nibbles and of the three ranges. -/
theorem witness_HexDigitsAreTheAsciiCodes :
    (0x09 : Byte).toNat ≤ 9 ∧ 10 ≤ (0x0A : Byte).toNat ∧ (0x0F : Byte).toNat ≤ 15 ∧ (0x39 : Byte).toNat ≤ 0x39 ∧
    0x41 ≤ (0x41 : Byte).toNat ∧ (0x66 : Byte).toNat ≤ 0x66 ∧ (0x2F : Byte).toNat < 0x30 ∧ 0x66 < (0x67 : Byte).toNat := by
  decide

/-- The last byte of the source, of the tag, of a 128-bit and a 256-bit key, and of an HMAC key of 64 bytes. -/
theorem witness_OperandBytesComeFromTheirRegisters :
    2 < (withSource [0x61, 0x62, 0x63] k1).srcLen.toNat ∧ 4 * 3 + 3 < k1.keySize.toNat / 8 ∧
    4 * 7 + 3 < k2Loaded.keySize.toNat / 8 ∧ 4 * 15 + 3 < ({ k1Loaded with hkeyLen := 64 }).hkeyLen.toNat := by
  decide

end Sys2Proof.Tests
end

section
/-! The invariant of the machine is kept by every step: one lemma for each shared operation, then one for each kind of
turn. -/

namespace Sys2Proof.Machine

/-- What a move from `s` to `t` has to keep: `t` meets the invariant, and the parameters are those of `s`. -/
structure InvKept (s t : State) : Prop where
  inv : t.Inv
  params : t.params = s.params

/-- Two moves, one after the other. -/
theorem InvKept.trans {s u t : State} (h : InvKept s u) (h' : InvKept u t) : InvKept s t :=
  ⟨h'.inv, h'.params.trans h.params⟩

/-! ## The completion -/

/-- A write inside the data memory lists no address outside it. -/
theorem writeBytes_inside {m : Memory} {a n : Nat} {out : Bytes} (h : ∀ c ∈ m, c.1 < n)
    (ho : out = [] ∨ a + out.length ≤ n) : ∀ c ∈ m.writeBytes a out, c.1 < n := by
  intro c hc
  rcases ho with rfl | ho
  · exact h c hc
  · rcases mem_writeBytes hc with hm | ⟨_, hlt⟩
    · exact h c hm
    · omega

/-- `OUT_LEN` holds the length of an output that fits the data memory (10_state.md R43). -/
theorem outLen_le_of_fits {p : Params} {a : Nat} {out : Bytes} (hp : p.Legal)
    (ho : out = [] ∨ a + out.length ≤ p.dmemBytes) : (BitVec.ofNat 32 out.length).toNat ≤ p.dmemBytes := by
  have hmod : (BitVec.ofNat 32 out.length).toNat ≤ out.length := by
    rw [BitVec.toNat_ofNat]
    exact Nat.mod_le _ _
  rcases ho with rfl | ho
  · exact Nat.zero_le _
  · omega

/-- The completion with `E_OK` and an output that fits. -/
theorem complete_ok_keeps_inv {s : State} {out : Bytes} (h : s.Inv) (ho : OutFits s (.ok out)) :
    InvKept s (complete (.ok out) s) := by
  obtain ⟨hlegal, hwf, hin, _, hlock, hkey, _⟩ := h
  exact ⟨⟨hlegal, wf_writeBytes _ _ hwf, writeBytes_inside hin ho, by simp, hlock, hkey,
    outLen_le_of_fits hlegal ho⟩, rfl⟩

/-- The completion with an error code. -/
theorem complete_error_keeps_inv {s : State} (h : s.Inv) (e : Failure) : InvKept s (complete (.error e) s) := by
  obtain ⟨hlegal, hwf, hin, _, hlock, hkey, _⟩ := h
  exact ⟨⟨hlegal, hwf, hin, by simp, hlock, hkey, Nat.zero_le _⟩, rfl⟩

/-- The completion with any result that fits. -/
theorem complete_keeps_inv {s : State} {r : Except Failure Bytes} (h : s.Inv) (hr : OutFits s r) :
    InvKept s (complete r s) := by
  cases r with
  | ok out => exact complete_ok_keeps_inv h hr
  | error e => exact complete_error_keeps_inv h e

/-! ## The engine -/

/-- Committing a legal key configuration (40_control.md R153, 42_cipher.md R205). -/
theorem commit_keeps_inv {s : State} (h : s.Inv) (hk : keyConfigLegal s = true) :
    InvKept s { s with keyValid := true } := by
  obtain ⟨hlegal, hwf, hin, hbusy, hlock, _, hout⟩ := h
  exact ⟨⟨hlegal, hwf, hin, hbusy, hlock, fun _ => hk, hout⟩, rfl⟩

/-- Erasing the key register file (40_control.md R154). -/
theorem clearKeys_keeps_inv {s : State} (h : s.Inv) : InvKept s (clearKeys s) := by
  obtain ⟨hlegal, hwf, hin, hbusy, hlock, _, hout⟩ := h
  exact ⟨⟨hlegal, hwf, hin, hbusy, hlock, by simp, hout⟩, rfl⟩

/-- A draw from the entropy source (60_exceptions.md R306). -/
theorem entropyDraw_keeps_inv {s : State} (h : s.Inv) : InvKept s (entropyDraw s).2 := by
  rcases entropyDraw_cases s with ⟨r, rs, _, he⟩ | ⟨_, he⟩ <;> rw [he] <;> exact ⟨h, rfl⟩

/-- Every way in which a command can end. -/
theorem execEnds_keeps_inv {i : Instr} {s t : State} (h : s.Inv) (ht : ExecEnds i s t) : InvKept s t := by
  cases ht with
  | plain r hr => exact complete_keeps_inv h hr
  | refusedKey => exact complete_error_keeps_inv h _
  | committedKey _ _ hk =>
    have hc := commit_keeps_inv h hk
    exact hc.trans (complete_ok_keeps_inv hc.inv (.inl rfl))
  | clearedKey =>
    have hc := clearKeys_keeps_inv h
    exact hc.trans (complete_ok_keeps_inv hc.inv (.inl rfl))
  | failedDraw =>
    have hd := entropyDraw_keeps_inv h
    have hl : InvKept (entropyDraw s).2 { (entropyDraw s).2 with rngFail := true } := ⟨hd.inv, rfl⟩
    exact (hd.trans hl).trans (complete_error_keeps_inv hl.inv _)
  | draw r hr =>
    have hd := entropyDraw_keeps_inv h
    exact hd.trans (complete_keeps_inv hd.inv hr)

/-- The engine's step, on a legal command word or an illegal one (40_control.md R150). -/
theorem engineStep_keeps_inv {s t : State} (h : s.Inv) (ht : engineStep s = .next t) : InvKept s t := by
  unfold engineStep at ht
  split at ht
  · next i _ =>
    obtain ⟨u, hu, hends⟩ := exec_ends i s
    cases hu.symm.trans ht
    exact execEnds_keeps_inv h hends
  · cases ht
    exact complete_error_keeps_inv h _

/-- The engine's turn, busy or idle. -/
theorem engineTurn_keeps_inv {s t : State} (h : s.Inv) (ht : engineTurn s = .next t) : InvKept s t := by
  unfold engineTurn at ht
  split at ht
  · exact engineStep_keeps_inv h ht
  · cases ht
    exact ⟨h, rfl⟩

/-! ## The host and the reset -/

/-- A write to `CTRL`: the lock it sets or finds set clears the enable bit (10_state.md R36). -/
theorem writeCtrl_keeps_inv {s : State} (h : s.Inv) (v : Word) : InvKept s (writeCtrl v s) := by
  obtain ⟨hlegal, hwf, hin, hbusy, _, hkey, hout⟩ := h
  have hlock : (writeCtrl v s).ivinjLock = true → (writeCtrl v s).ivinjEn = false := by
    rw [writeCtrl_ivinjLock, writeCtrl_ivinjEn]
    exact fun hl => if_pos hl
  exact ⟨⟨hlegal, hwf, hin, hbusy, hlock, hkey, hout⟩, rfl⟩

/-- A write to `STATUS`: `DONE` can only fall, so it stays 0 while busy (10_state.md R37). -/
theorem writeStatus_keeps_inv {s : State} (h : s.Inv) (v : Word) : InvKept s (writeStatus v s) := by
  obtain ⟨hlegal, hwf, hin, hbusy, hlock, hkey, hout⟩ := h
  refine ⟨⟨hlegal, hwf, hin, fun hb => ?_, hlock, hkey, hout⟩, rfl⟩
  obtain ⟨hdone, herr, hlen⟩ := hbusy hb
  exact ⟨by simp [hdone], herr, hlen⟩

/-- An accepted `CMD` write clears what must be 0 while busy (10_state.md R38). -/
theorem acceptCommand_keeps_inv {s : State} (h : s.Inv) (w : Word) : InvKept s (acceptCommand w s) := by
  obtain ⟨hlegal, hwf, hin, _, hlock, hkey, _⟩ := h
  exact ⟨⟨hlegal, hwf, hin, fun _ => ⟨rfl, rfl, rfl⟩, hlock, hkey, Nat.zero_le _⟩, rfl⟩

/-- A write under the key lock: dropped while a key is committed (10_state.md R50), so only the case without one matters. -/
theorem unlessLocked_keeps_inv {s t : State} (h : s.Inv) (ht : s.keyValid = false → InvKept s t) :
    InvKept s (unlessLocked s t) := by
  unfold unlessLocked
  split
  · exact ⟨h, rfl⟩
  · next hv => exact ht (by simpa using hv)

/-- While no key is committed its configuration may be anything (10_state.md R45, R46). -/
theorem keyConfig_keeps_inv {s : State} (h : s.Inv) (hv : s.keyValid = false) (size : BitVec 16) (mode : Byte)
    (len : BitVec 16) : InvKept s { s with keySize := size, keyMode := mode, hkeyLen := len } := by
  obtain ⟨hlegal, hwf, hin, hbusy, hlock, _, hout⟩ := h
  exact ⟨⟨hlegal, hwf, hin, hbusy, hlock, by simp [hv], hout⟩, rfl⟩

/-- The effect of a register write, register by register. -/
theorem regWriteIdle_keeps_inv {s : State} (h : s.Inv) (r : Reg) (v : Word) : InvKept s (regWriteIdle r v s) := by
  cases r with
  | ctrl => exact writeCtrl_keeps_inv h v
  | status => exact writeStatus_keeps_inv h v
  | cmd => exact acceptCommand_keeps_inv h v
  | aesKey i => exact unlessLocked_keeps_inv h fun _ => ⟨h, rfl⟩
  | hkey i => exact unlessLocked_keeps_inv h fun _ => ⟨h, rfl⟩
  | keycfg => exact unlessLocked_keeps_inv h fun hv => keyConfig_keeps_inv h hv _ _ s.hkeyLen
  | hkeyLen => exact unlessLocked_keeps_inv h fun hv => keyConfig_keeps_inv h hv s.keySize s.keyMode _
  | id | dmemSize | outLen | srcAddr | srcLen | dstAddr | auxAddr | iv => exact ⟨h, rfl⟩

/-- A register write, busy or idle (20_memory.md R87). -/
theorem regWrite_keeps_inv {s : State} (h : s.Inv) (r : Reg) (v : Word) : InvKept s (regWrite r v s) := by
  unfold regWrite
  split
  · exact ⟨h, rfl⟩
  · exact regWriteIdle_keeps_inv h r v

/-- A write of a string inside the data memory. -/
theorem memWrite_keeps_inv {s : State} {a : Nat} {out : Bytes} (h : s.Inv)
    (ho : a + out.length ≤ s.params.dmemBytes) : InvKept s (memWrite a out s) := by
  obtain ⟨hlegal, hwf, hin, hbusy, hlock, hkey, hout⟩ := h
  exact ⟨⟨hlegal, wf_writeBytes _ _ hwf, writeBytes_inside hin (.inr ho), hbusy, hlock, hkey, hout⟩, rfl⟩

/-- One host access (20_memory.md R89). -/
theorem hostAccess_keeps_inv {s : State} (h : s.Inv) (a : Access) : InvKept s (hostAccess a s) := by
  rcases hostAccess_cases a s with
    ⟨r, he⟩ | ⟨d, w, _, _, he⟩ | ⟨r, v, he⟩ | ⟨d, w, v, _, hr, he⟩ | he | he <;> rw [he]
  · exact ⟨h, rfl⟩
  · exact ⟨h, rfl⟩
  · exact regWrite_keeps_inv h r v
  · have hin : d + w.bytes ≤ s.params.dmemBytes := of_decide_eq_true hr
    exact memWrite_keeps_inv h ((Nat.add_le_add_left (List.length_take_le _ _) d).trans hin)
  · exact ⟨h, rfl⟩
  · exact ⟨h, rfl⟩

/-- An asserted `rst` (70_reset_and_hazards.md R340): nothing is left but the legal parameters. -/
theorem hardReset_keeps_inv {s : State} (h : s.Inv) : InvKept s (hardReset s) := by
  obtain ⟨hlegal, _⟩ := h
  exact ⟨⟨hlegal, wf_empty, by simp, by simp, by simp, by simp, Nat.zero_le _⟩, rfl⟩

/-! ## The step -/

/-- Taking a turn off the list does not touch what the invariant speaks of. -/
theorem takeTurn_keeps_inv {s : State} (h : s.Inv) (ts : List Turn) : InvKept s { s with turns := ts } := ⟨h, rfl⟩

/-- One step, whoever moves. -/
theorem step_keeps_inv {s t : State} (h : s.Inv) (ht : step s = .next t) : InvKept s t := by
  rcases step_cases s with ⟨_, he⟩ | ⟨ts, _, he⟩ | ⟨a, ts, _, he⟩ | ⟨ts, _, he⟩ <;> rw [he] at ht
  · exact engineTurn_keeps_inv h ht
  · have hts := takeTurn_keeps_inv h ts
    exact hts.trans (engineTurn_keeps_inv hts.inv ht)
  · cases ht
    have hts := takeTurn_keeps_inv h ts
    exact hts.trans (hostAccess_keeps_inv hts.inv a)
  · cases ht
    have hts := takeTurn_keeps_inv h ts
    exact hts.trans (hardReset_keeps_inv hts.inv)

/-- Settles O7: the step is the engine's turn, a host access or a reset, and each of them keeps the invariant. -/
theorem everyStepKeepsTheInvariant : Obligations.EveryStepKeepsTheInvariant := by
  intro s t h ht
  obtain ⟨hinv, hparams⟩ := step_keeps_inv h ht
  exact ⟨hinv, hparams⟩

end Sys2Proof.Machine
end

section
/-! The host's register writes and what `CTRL`, `STATUS` and the key configuration registers read: one rule for each, and
the statements of 10_state.md about the register map that rest on them. -/

namespace Sys2Proof.Machine

/-! ## A register write, busy or idle -/

/-- An idle engine takes the write (10_state.md R34 to R48). -/
theorem regWrite_idle {s : State} (h : s.busy = false) (r : Reg) (v : Word) :
    regWrite r v s = regWriteIdle r v s := by
  simp [regWrite, h]

/-- A busy engine drops every write but the one to `STATUS` (20_memory.md R87). -/
theorem regWrite_busy {s : State} (h : s.busy = true) {r : Reg} (hr : r ≠ .status) (v : Word) :
    regWrite r v s = dropAccess s := by
  simp [regWrite, h, hr]

/-- `STATUS` is written busy or idle (20_memory.md R87). -/
@[simp] theorem regWrite_status (v : Word) (s : State) : regWrite .status v s = writeStatus v s := by
  simp [regWrite, regWriteIdle]

/-- The key lock drops the write (10_state.md R50). -/
theorem unlessLocked_of_committed {s : State} (h : s.keyValid = true) (t : State) :
    unlessLocked s t = dropAccess s := by
  simp [unlessLocked, h]

/-- Without a committed key the write takes effect (10_state.md R50). -/
theorem unlessLocked_of_uncommitted {s : State} (h : s.keyValid = false) (t : State) : unlessLocked s t = t := by
  simp [unlessLocked, h]

/-- A write to a key register while a key is committed is dropped, by the key lock or because the engine is busy. -/
theorem regWrite_locked {s t : State} {r : Reg} {v : Word} (h : s.keyValid = true) (hr : r ≠ .status)
    (ht : regWriteIdle r v s = unlessLocked s t) : regWrite r v s = dropAccess s := by
  cases hb : s.busy with
  | true => exact regWrite_busy hb hr v
  | false => rw [regWrite_idle hb, ht, unlessLocked_of_committed h]

/-- A write to a key register of an idle engine without a committed key. -/
theorem regWrite_unlocked {s t : State} {r : Reg} {v : Word} (hb : s.busy = false) (h : s.keyValid = false)
    (ht : regWriteIdle r v s = unlessLocked s t) : regWrite r v s = t := by
  rw [regWrite_idle hb, ht, unlessLocked_of_uncommitted h]

/-! ## The register map -/

/-- The map finds every register at its offset (10_state.md R33). -/
theorem ofOffset_offset (r : Reg) : Reg.ofOffset r.offset = some r := by
  cases r with
  | aesKey k => revert k; decide
  | hkey k => revert k; decide
  | iv k => revert k; decide
  | id | dmemSize | ctrl | status | cmd | srcAddr | srcLen | dstAddr | auxAddr | outLen | keycfg | hkeyLen => rfl

/-- Every register's offset is that of an aligned word up to 0xCC (10_state.md R33). -/
theorem offset_aligned_le (r : Reg) : r.offset % 4 = 0 ∧ r.offset ≤ 0xCC := by
  cases r <;> simp [Reg.offset] <;> omega

/-- The reserved offsets of the register space (10_state.md R49). -/
theorem ofOffset_eq_none_iff {off : Nat} (h : off % 4 = 0) : Reg.ofOffset off = none ↔
    (0x028 ≤ off ∧ off ≤ 0x03C) ∨ (0x068 ≤ off ∧ off ≤ 0x07C) ∨ 0x0D0 ≤ off := by
  simp only [Reg.ofOffset, ite_eq_iff, reduceCtorEq, and_false, and_true, false_or]
  omega

/-- Settles O44: the offsets are the table's by definition, and the map inverts them. -/
theorem registerMapIsOneToOne : Obligations.RegisterMapIsOneToOne := by
  refine ⟨?_, fun r => ⟨ofOffset_offset r, offset_aligned_le r⟩, fun off h => ofOffset_eq_none_iff h⟩
  simp [Reg.offset]

/-! ## `CMD` and the read-only registers -/

/-- Settles O48. -/
theorem cmdAcceptsEveryWordWhileIdle : Obligations.CmdAcceptsEveryWordWhileIdle :=
  fun _ w => ⟨rfl, fun hidle => regWrite_idle hidle .cmd w, fun hbusy => regWrite_busy hbusy (by simp) w⟩

/-- Settles O52. -/
theorem readOnlyRegistersIgnoreWrites : Obligations.ReadOnlyRegistersIgnoreWrites :=
  fun _ v => ⟨rfl, rfl, rfl, fun hidle =>
    ⟨regWrite_idle hidle .id v, regWrite_idle hidle .dmemSize v, regWrite_idle hidle .outLen v⟩⟩

/-! ## `CTRL` -/

/-- The fields of `CTRL` in their bits, `IVINJ_EN` as it is seen through the lock (10_state.md R36). -/
theorem ctrlWord_bits (s : State) : (ctrlWord s).getLsbD 0 = s.irqEn ∧
    (ctrlWord s).getLsbD 1 = injectionEnabled s ∧ (ctrlWord s).getLsbD 2 = s.ivinjLock := by
  simp only [ctrlWord, BitVec.append_ofBool, BitVec.getLsbD_concat_succ, BitVec.getLsbD_concat_zero, and_self]

/-- The reserved bits of `CTRL` read 0 (10_state.md R36). -/
theorem ctrlWord_reserved (s : State) {k : Nat} (h : 3 ≤ k) : (ctrlWord s).getLsbD k = false := by
  obtain ⟨j, rfl⟩ := Nat.exists_eq_add_of_le' h
  simp only [ctrlWord, BitVec.append_ofBool, BitVec.getLsbD_concat_succ]
  exact BitVec.getLsbD_zero

/-- A `CTRL` write enables injection only without the lock, the one it finds or the one it sets (10_state.md R36). -/
theorem writeCtrl_ivinjEn_eq (v : Word) (s : State) :
    (writeCtrl v s).ivinjEn = (!(writeCtrl v s).ivinjLock && v.getLsbD 1) := by
  rw [writeCtrl_ivinjEn, writeCtrl_ivinjLock]
  cases s.ivinjLock || v.getLsbD 2 <;> rfl

/-- The enable that a `CTRL` write leaves reads back as it is: the lock hides nothing more (10_state.md R36). -/
theorem injectionEnabled_writeCtrl (v : Word) (s : State) :
    injectionEnabled (writeCtrl v s) = (writeCtrl v s).ivinjEn := by
  rw [injectionEnabled, writeCtrl_ivinjEn_eq]
  cases (writeCtrl v s).ivinjLock <;> simp

/-- Settles O49. -/
theorem ctrlLockWins : Obligations.CtrlLockWins := by
  rintro s _ v hidle rfl
  rw [regWrite_idle hidle]
  obtain ⟨hirqEn, hinjEn, hlock⟩ := ctrlWord_bits (writeCtrl v s)
  exact ⟨rfl, rfl, writeCtrl_ivinjEn_eq v s, rfl, hirqEn, hinjEn.trans (injectionEnabled_writeCtrl v s), hlock,
    fun _ hk => ctrlWord_reserved _ hk⟩

/-! ## `STATUS` -/

/-- The flags of `STATUS` in their bits (10_state.md R37). -/
theorem statusWord_flags (s : State) :
    (statusWord s).getLsbD 0 = s.busy ∧ (statusWord s).getLsbD 1 = s.done ∧ (statusWord s).getLsbD 2 = s.accErr ∧
    (statusWord s).getLsbD 3 = s.keyValid ∧ (statusWord s).getLsbD 4 = s.rngFail := by
  simp only [statusWord, BitVec.append_ofBool, BitVec.getLsbD_concat_succ, BitVec.getLsbD_concat_zero, and_self]

/-- `ERR` is in bits 11:8 of `STATUS`, and the bits on both sides of it, 7:5 and 31:12, read 0 (10_state.md R37). -/
theorem statusWord_fields (s : State) :
    (statusWord s).extractLsb' 5 3 = 0 ∧ (statusWord s).extractLsb' 8 4 = errCode s.err ∧
    (statusWord s).extractLsb' 12 20 = 0 := by
  rw [statusWord]
  refine ⟨?_, ?_, ?_⟩
  · iterate 5 rw [BitVec.extractLsb'_append_eq_of_le (by decide)]
    exact BitVec.extractLsb'_append_eq_right
  · iterate 6 rw [BitVec.extractLsb'_append_eq_of_le (by decide)]
    exact BitVec.extractLsb'_append_eq_right
  · iterate 7 rw [BitVec.extractLsb'_append_eq_of_le (by decide)]
    rfl

/-- Settles O50. -/
theorem statusReadsAndClears : Obligations.StatusReadsAndClears := by
  refine ⟨⟨rfl, rfl, rfl, rfl, rfl, rfl, rfl, rfl, rfl⟩, fun s v => ?_⟩
  obtain ⟨hbusy, hdone, haccErr, hkeyValid, hrngFail⟩ := statusWord_flags s
  obtain ⟨hlow, hcode, hhigh⟩ := statusWord_fields s
  exact ⟨hbusy, hdone, haccErr, hkeyValid, hrngFail, hlow, hcode, hhigh, regWrite_status v s⟩

/-! ## The key configuration -/

/-- The bits of a word under a mask of its low `n` bits. -/
theorem getLsbD_and_lowMask (v : Word) (n k : Nat) :
    (v &&& BitVec.ofNat 32 (2 ^ n - 1)).getLsbD k = (decide (k < n) && v.getLsbD k) := by
  rw [BitVec.getLsbD_and, BitVec.getLsbD_ofNat, Nat.testBit_two_pow_sub_one]
  by_cases hk : k < 32
  · simp [hk, Bool.and_comm]
  · simp [BitVec.getLsbD_of_ge v k (by omega)]

/-- `KEYCFG` reads its two fields back, as the low 24 bits of the word written (10_state.md R45). -/
theorem keycfgWord_of_fields {s : State} {v : Word} (hsize : s.keySize = v.extractLsb' 0 16)
    (hmode : s.keyMode = v.extractLsb' 16 8) : keycfgWord s = v &&& 0x00FFFFFF := by
  refine BitVec.eq_of_getLsbD_eq fun k hk => Eq.trans ?_ (getLsbD_and_lowMask v 24 k).symm
  rw [keycfgWord, hsize, hmode, BitVec.getLsbD_append, BitVec.getLsbD_append]
  by_cases hlow : k < 16
  · simp [hlow, Nat.lt_trans hlow]
  · obtain ⟨j, rfl⟩ := Nat.exists_eq_add_of_le (Nat.not_lt.mp hlow)
    have hmid : 16 + j < 24 ↔ j < 8 := by omega
    by_cases hj : j < 8 <;> simp [hmid, hj]

/-- `HKEY_LEN` reads its field back, as the low 16 bits of the word written (10_state.md R46). -/
theorem hkeyLenWord_of_field {s : State} {v : Word} (hlen : s.hkeyLen = v.extractLsb' 0 16) :
    hkeyLenWord s = v &&& 0x0000FFFF := by
  refine BitVec.eq_of_getLsbD_eq fun k hk => Eq.trans ?_ (getLsbD_and_lowMask v 16 k).symm
  rw [hkeyLenWord, hlen, BitVec.getLsbD_append]
  by_cases hlow : k < 16 <;> simp [hlow]

/-- Settles O53. -/
theorem keyConfigurationReadsBack : Obligations.KeyConfigurationReadsBack := by
  intro s v hidle huncommitted
  rw [regWrite_unlocked (r := .keycfg) hidle huncommitted rfl, regWrite_unlocked (r := .hkeyLen) hidle huncommitted rfl]
  exact ⟨keycfgWord_of_fields rfl rfl, hkeyLenWord_of_field rfl, rfl, rfl⟩

/-! ## The operand and IV registers -/

/-- The registers of 10_state.md R39 to R42 and R48, which an idle host writes whole. -/
def IsOperandRegister (r : Reg) : Prop :=
  r = .srcAddr ∨ r = .srcLen ∨ r = .dstAddr ∨ r = .auxAddr ∨ ∃ k, r = .iv k

/-- An operand or IV register reads back the word written. -/
theorem regRead_regWriteIdle_same {r : Reg} (hr : IsOperandRegister r) (v : Word) (s : State) :
    regRead (regWriteIdle r v s) r = v := by
  rcases hr with rfl | rfl | rfl | rfl | ⟨k, rfl⟩
  case inr.inr.inr.inr => simp [regWriteIdle, regRead]
  all_goals rfl

/-- A write to an operand or IV register is not seen in any other register. -/
theorem regRead_regWriteIdle_other {r r' : Reg} (hr : IsOperandRegister r) (hne : r' ≠ r) (v : Word) (s : State) :
    regRead (regWriteIdle r v s) r' = regRead s r' := by
  rcases hr with rfl | rfl | rfl | rfl | ⟨k, rfl⟩
  · cases r' with
    | srcAddr => exact absurd rfl hne
    | _ => rfl
  · cases r' with
    | srcLen => exact absurd rfl hne
    | _ => rfl
  · cases r' with
    | dstAddr => exact absurd rfl hne
    | _ => rfl
  · cases r' with
    | auxAddr => exact absurd rfl hne
    | _ => rfl
  · cases r' with
    | iv j =>
      have hval : k.val ≠ j.val := fun h => hne (congrArg Reg.iv (Fin.ext h.symm))
      exact Vector.getElem_set_ne k.isLt j.isLt hval
    | _ => rfl

/-- A write to an operand or IV register sets no `ACCERR` and writes no byte. -/
theorem regWriteIdle_operand_frame {r : Reg} (hr : IsOperandRegister r) (v : Word) (s : State) :
    (regWriteIdle r v s).accErr = s.accErr ∧ SameBytes s (regWriteIdle r v s) := by
  rcases hr with rfl | rfl | rfl | rfl | ⟨k, rfl⟩ <;> exact ⟨rfl, fun b => byteAt_congr rfl rfl b⟩

/-- Settles O51. -/
theorem operandRegistersReadBack : Obligations.OperandRegistersReadBack := by
  constructor
  · intro s v hidle
    exact ⟨regWrite_idle hidle .srcAddr v, regWrite_idle hidle .srcLen v, regWrite_idle hidle .dstAddr v,
      regWrite_idle hidle .auxAddr v, fun k => regWrite_idle hidle (.iv k) v⟩
  · intro s r r' v hidle hr
    rw [regWrite_idle hidle]
    exact ⟨regRead_regWriteIdle_same hr v s, fun hne => regRead_regWriteIdle_other hr hne v s,
      regWriteIdle_operand_frame hr v s⟩

end Sys2Proof.Machine
end

section
/-! The byte strings that the commands read, byte by byte: the source and the tag from the data memory, the keys and the IV
from their registers in lane order (20_memory.md R82). -/

namespace Sys2Proof.Machine

/-- Lane `l` of a register is its bits `8·l+7 : 8·l`. -/
theorem wordLE_getElem? (w : Word) (l : Fin 4) : (wordLE w)[l.val]? = some (w.extractLsb' (8 * l.val) 8) := by
  fin_cases l <;> rfl

/-- Four bytes a register. -/
@[simp] theorem registerBytes_length (ws : List Word) : (registerBytes ws).length = 4 * ws.length := by
  simp [registerBytes, wordLE, Nat.mul_comm]

/-- Byte `4·j + l` of consecutive registers is lane `l` of register `j`. -/
theorem registerBytes_getElem? (ws : List Word) (j : Nat) (l : Fin 4) :
    (registerBytes ws)[4 * j + l.val]? = ws[j]?.map fun w => w.extractLsb' (8 * l.val) 8 := by
  induction ws generalizing j with
  | nil => simp [registerBytes]
  | cons w ws ih =>
    have hcons : registerBytes (w :: ws) = wordLE w ++ registerBytes ws := rfl
    have hfour : (wordLE w).length = 4 := rfl
    cases j with
    | zero =>
      rw [Nat.mul_zero, Nat.zero_add, hcons, List.getElem?_append_left (by rw [hfour]; exact l.isLt), wordLE_getElem?]
      rfl
    | succ j =>
      have hrest : 4 * (j + 1) + l.val - 4 = 4 * j + l.val := by omega
      rw [hcons, List.getElem?_append_right (by omega), hfour, hrest, ih, List.getElem?_cons_succ]

/-- Byte `4·j + l` of a register file. -/
theorem registerFile_getElem? {n : Nat} (ws : Vector Word n) (j : Fin n) (l : Fin 4) :
    (registerBytes ws.toList)[4 * j.val + l.val]? = some (ws[j].extractLsb' (8 * l.val) 8) := by
  simp [registerBytes_getElem?]

/-- Byte `4·j + l` of a key that holds the first `m` bytes of a register file. -/
theorem registerFile_take_getElem? {n m : Nat} (ws : Vector Word n) (j : Fin n) (l : Fin 4)
    (hm : 4 * j.val + l.val < m) :
    ((registerBytes ws.toList).take m)[4 * j.val + l.val]? = some (ws[j].extractLsb' (8 * l.val) 8) := by
  rw [List.getElem?_take_of_lt hm, registerFile_getElem?]

/-- A key is fixed by the register bytes below its length. -/
theorem registerFile_take_congr {n m : Nat} {ws ws' : Vector Word n}
    (h : ∀ (j : Fin n) (l : Fin 4), 4 * j.val + l.val < m →
      ws'[j].extractLsb' (8 * l.val) 8 = ws[j].extractLsb' (8 * l.val) 8) :
    (registerBytes ws'.toList).take m = (registerBytes ws.toList).take m := by
  apply List.ext_getElem?
  intro i
  obtain ⟨j, l, rfl⟩ : ∃ (j : Nat) (l : Fin 4), i = 4 * j + l.val :=
    ⟨i / 4, ⟨i % 4, Nat.mod_lt _ (by decide)⟩, (Nat.div_add_mod i 4).symm⟩
  by_cases hin : 4 * j + l.val < m ∧ j < n
  · obtain ⟨hm, hn⟩ := hin
    calc _ = some (ws'[j].extractLsb' (8 * l.val) 8) := registerFile_take_getElem? ws' ⟨j, hn⟩ l hm
      _ = some (ws[j].extractLsb' (8 * l.val) 8) := congrArg some (h ⟨j, hn⟩ l hm)
      _ = _ := (registerFile_take_getElem? ws ⟨j, hn⟩ l hm).symm
  · have hlen (v : Vector Word n) : ((registerBytes v.toList).take m).length ≤ 4 * j + l.val := by
      simp only [List.length_take, registerBytes_length, Vector.length_toList]
      omega
    rw [List.getElem?_eq_none (hlen ws'), List.getElem?_eq_none (hlen ws)]

/-- Byte `k` of a region of the data memory. -/
theorem memRead_getElem? (s : State) (a : Nat) {n k : Nat} (hk : k < n) :
    (memRead s a n)[k]? = some (s.byteAt (a + k)) := by
  have hlen : k < (memRead s a n).length := by simpa using hk
  rw [List.getElem?_eq_getElem hlen, memRead_getElem]

/-- Settles O60. -/
theorem operandBytesComeFromTheirRegisters : Obligations.OperandBytesComeFromTheirRegisters := by
  intro s
  refine ⟨sourceBytes_length s, fun k hk => memRead_getElem? s _ hk, tagBytes_length s,
    fun k hk => memRead_getElem? s _ hk, ?_, fun j l hm => registerFile_take_getElem? s.aesKey j l hm,
    ?_, fun j l hm => registerFile_take_getElem? s.hkey j l hm, ivBytes_length s, registerFile_getElem? s.iv⟩
  · simp [aesKeyBytes, Nat.min_comm]
  · simp [hmacKeyBytes, Nat.min_comm]

end Sys2Proof.Machine
end

section
/-! Key material (10_state.md R44, R47): what the host reads and what the commands do when the words of `AES_KEY0` to
`AES_KEY7` and `HKEY0` to `HKEY15` are replaced by others. -/

namespace Sys2Proof.Machine

/-- The state with other words in the key registers. -/
def replaceKeys (k : Vector Word 8) (h : Vector Word 16) (s : State) : State := { s with aesKey := k, hkey := h }

variable (k : Vector Word 8) (h : Vector Word 16) (s : State)

/-! ## What the host reads -/

/-- No register reads key material. -/
theorem regRead_replaceKeys (r : Reg) : regRead (replaceKeys k h s) r = regRead s r := by
  cases r <;> rfl

/-- No place of the window reads key material. -/
theorem readPlace_replaceKeys_rdata (w : Width) (p : Place) :
    (readPlace w (replaceKeys k h s) p).rdata = (readPlace w s p).rdata := by
  cases p with
  | register r => exact regRead_replaceKeys k h s r
  | dropped => rfl
  | dmem d =>
    change (if s.busy then _ else _ : State).rdata = (if s.busy then _ else _ : State).rdata
    split <;> rfl

/-- A write under the key lock leaves the host's last reply, if the write itself does. -/
theorem unlessLocked_rdata {s t : State} (ht : t.rdata = s.rdata) : (unlessLocked s t).rdata = s.rdata := by
  unfold unlessLocked
  split
  · rfl
  · exact ht

/-- A register write leaves the host's last reply. -/
theorem regWrite_rdata (r : Reg) (v : Word) : (regWrite r v s).rdata = s.rdata := by
  unfold regWrite
  split
  · rfl
  · cases r with
    | aesKey | keycfg | hkeyLen | hkey => exact unlessLocked_rdata rfl
    | _ => rfl

/-- A write at any place leaves the host's last reply. -/
theorem writePlace_rdata (w : Width) (v : Word) (p : Place) : (writePlace w v s p).rdata = s.rdata := by
  cases p with
  | register r => exact regWrite_rdata s r v
  | dropped => rfl
  | dmem d =>
    rw [writePlace]
    split <;> rfl

/-- What the host has read after an access does not depend on the key registers. -/
theorem hostAccess_replaceKeys_rdata (a : Access) :
    (hostAccess a (replaceKeys k h s)).rdata = (hostAccess a s).rdata := by
  cases a with
  | read w off => exact readPlace_replaceKeys_rdata k h s w _
  | write w off v => exact (writePlace_rdata _ w v _).trans (writePlace_rdata s w v _).symm

/-- Settles O55. -/
theorem keyRegistersCannotBeRead : Obligations.KeyRegistersCannotBeRead :=
  fun s a k h => ⟨hostAccess_replaceKeys_rdata k h s a, fun _ => rfl, fun _ => rfl⟩

/-! ## What the commands do

The stages, the draw and the completion do not read the key registers, so they commute with `replaceKeys`; the bodies read
them through `AESKEY` and `HKEY` alone. -/

/-- The check stages do not read the key registers. -/
theorem firstFailure_replaceKeys (c : Checks) : c.firstFailure (replaceKeys k h s) = c.firstFailure s := by
  obtain ⟨_, _, _, target⟩ := c
  cases target <;> rfl

/-- A command without a draw, whose body gives the same result on both states. -/
theorem runCommand_replaceKeys (c : Checks) {r r' : Except Failure Bytes} (hr : r' = r) :
    runCommand c r' (replaceKeys k h s) = replaceKeys k h (runCommand c r s) := by
  subst hr
  unfold runCommand
  rw [firstFailure_replaceKeys]
  split <;> rfl

/-- A draw does not read the key registers. -/
theorem entropyDraw_replaceKeys :
    entropyDraw (replaceKeys k h s) = ((entropyDraw s).1, replaceKeys k h (entropyDraw s).2) := by
  have hlisted : (replaceKeys k h s).entropy = s.entropy := rfl
  unfold entropyDraw
  rw [hlisted]
  cases s.entropy <;> rfl

/-- A command with a draw, whose body is the same on both states. -/
theorem runDrawingCommand_replaceKeys (c : Checks) {body body' : Bytes → Except Failure Bytes} (hb : body' = body) :
    runDrawingCommand c body' (replaceKeys k h s) = replaceKeys k h (runDrawingCommand c body s) := by
  subst hb
  have hlatch : (replaceKeys k h s).rngFail = s.rngFail := rfl
  unfold runDrawingCommand
  rw [firstFailure_replaceKeys, entropyDraw_replaceKeys, hlatch]
  cases c.firstFailure s with
  | some e => rfl
  | none =>
    cases s.rngFail with
    | true => rfl
    | false => cases (entropyDraw s).1 <;> rfl

/-- `KEY_COMMIT` checks the configuration, not the key registers (40_control.md R153). -/
theorem execKeyCommit_replaceKeys :
    ∃ t, exec .keyCommit s = .next t ∧ exec .keyCommit (replaceKeys k h s) = .next (replaceKeys k h t) := by
  have hvalid : (replaceKeys k h s).keyValid = s.keyValid := rfl
  have hlegal : keyConfigLegal (replaceKeys k h s) = keyConfigLegal s := rfl
  simp only [exec, execKeyCommit, hvalid, hlegal]
  split
  · exact ⟨_, rfl, rfl⟩
  · split <;> exact ⟨_, rfl, rfl⟩

section
variable {k h s}

/-- `HMAC_VERIFY` reads the HMAC key through `HKEY`. -/
theorem verifyBody_replaceKeys (hh : hmacKeyBytes (replaceKeys k h s) = hmacKeyBytes s) :
    verifyBody (replaceKeys k h s) = verifyBody s := by
  unfold verifyBody
  rw [hh]
  rfl

/-- `SEAL` reads the keys through `AESKEY` and `HKEY`. -/
theorem sealBody_replaceKeys (hex : Bool) (ha : aesKeyBytes (replaceKeys k h s) = aesKeyBytes s)
    (hh : hmacKeyBytes (replaceKeys k h s) = hmacKeyBytes s) : sealBody hex (replaceKeys k h s) = sealBody hex s := by
  funext iv
  unfold sealBody
  rw [ha, hh]
  rfl

/-- `OPEN` reads the keys through `AESKEY` and `HKEY`. -/
theorem openBody_replaceKeys (hex : Bool) (ha : aesKeyBytes (replaceKeys k h s) = aesKeyBytes s)
    (hh : hmacKeyBytes (replaceKeys k h s) = hmacKeyBytes s) : openBody hex (replaceKeys k h s) = openBody hex s := by
  unfold openBody
  rw [ha, hh]
  rfl

/-- Every command but `KEY_CLEAR`, on other key registers with the same `AESKEY` and `HKEY`, does the same and keeps those
registers. -/
theorem exec_replaceKeys {i : Instr} (hi : i ≠ .keyClear) (ha : aesKeyBytes (replaceKeys k h s) = aesKeyBytes s)
    (hh : hmacKeyBytes (replaceKeys k h s) = hmacKeyBytes s) :
    ∃ t, exec i s = .next t ∧ exec i (replaceKeys k h s) = .next (replaceKeys k h t) := by
  have hrun {c : Checks} {r r' : Except Failure Bytes} (hr : r' = r) :=
    congrArg (Host.Outcome.next (φ := Fault) (ρ := Refusal)) (runCommand_replaceKeys k h s c hr)
  have hdraw {c : Checks} {b b' : Bytes → Except Failure Bytes} (hb : b' = b) :=
    congrArg (Host.Outcome.next (φ := Fault) (ρ := Refusal)) (runDrawingCommand_replaceKeys k h s c hb)
  cases i with
  | nop => exact ⟨_, rfl, rfl⟩
  | keyCommit => exact execKeyCommit_replaceKeys k h s
  | keyClear => exact absurd rfl hi
  | pad | unpad | hexEnc | hexDec => exact ⟨_, rfl, hrun rfl⟩
  | aesCbcEnc => exact ⟨_, rfl, hrun (congrArg (fun K => Except.ok (cbcEnc K (ivBytes s) (sourceBytes s))) ha)⟩
  | aesCbcDec => exact ⟨_, rfl, hrun (congrArg (fun K => Except.ok (cbcDec K (ivBytes s) (sourceBytes s))) ha)⟩
  | hmacGen => exact ⟨_, rfl, hrun (congrArg (fun H => Except.ok (hmacSha1 H (sourceBytes s))) hh)⟩
  | hmacVerify => exact ⟨_, rfl, hrun (verifyBody_replaceKeys hh)⟩
  | sealBin => exact ⟨_, rfl, hdraw (sealBody_replaceKeys false ha hh)⟩
  | sealHex => exact ⟨_, rfl, hdraw (sealBody_replaceKeys true ha hh)⟩
  | sealInj => exact ⟨_, rfl, hrun (congrFun (sealBody_replaceKeys false ha hh) (ivBytes s))⟩
  | sealHexInj => exact ⟨_, rfl, hrun (congrFun (sealBody_replaceKeys true ha hh) (ivBytes s))⟩
  | openBin => exact ⟨_, rfl, hrun (openBody_replaceKeys false ha hh)⟩
  | openHex => exact ⟨_, rfl, hrun (openBody_replaceKeys true ha hh)⟩

end

/-- `KEY_CLEAR` erases whatever the key registers held (40_control.md R154). -/
theorem execKeyClear_replaceKeys : exec .keyClear (replaceKeys k h s) = exec .keyClear s := rfl

/-- Settles O56: the first two clauses are about the bytes below the key's length, the third is `exec_replaceKeys`. -/
theorem unusedKeyBytesHaveNoEffect : Obligations.UnusedKeyBytesHaveNoEffect := by
  refine ⟨fun s hsize k hk => ?_, fun s h hbytes => registerFile_take_congr hbytes, ?_⟩
  · refine registerFile_take_congr fun j l hlt => ?_
    have hj : j.val < 4 := by
      have hsixteen : s.keySize.toNat / 8 = 16 := by rw [hsize]; rfl
      change 4 * j.val + l.val < s.keySize.toNat / 8 at hlt
      omega
    exact congrArg (BitVec.extractLsb' (8 * l.val) 8) (hk ⟨j.val, hj⟩)
  · intro i s s' t t' hs ha hh ht ht'
    obtain ⟨k, h, rfl⟩ : ∃ k h, s' = replaceKeys k h s := ⟨_, _, hs⟩
    by_cases hi : i = .keyClear
    · subst hi
      rw [execKeyClear_replaceKeys, ht] at ht'
      cases ht'
      rfl
    · obtain ⟨u, hu, hu'⟩ := exec_replaceKeys hi ha hh
      cases ht.symm.trans hu
      cases ht'.symm.trans hu'
      rfl

end Sys2Proof.Machine
end

section
/-! The commitment of a key (10_state.md R50): every step but a reset and the engine's `KEY_CLEAR` keeps a committed key with
its registers. -/

namespace Sys2Proof.Machine

/-! ## The word of `KEY_CLEAR` -/

/-- A command word is made of its fields (30_encoding.md R121). -/
theorem wordOfFields_commandFields (w : Word) : wordOfFields (commandFields w) = w := by
  refine BitVec.eq_of_getLsbD_eq fun k hk => ?_
  simp only [wordOfFields, commandFields, BitVec.getLsbD_append, BitVec.getLsbD_extractLsb']
  interval_cases k <;> simp

/-- Only the operation 0x02 is `KEY_CLEAR` among those without flags (30_encoding.md R123). -/
theorem plainCommand_keyClear {op : Byte} (h : plainCommand op = some .keyClear) : op = 0x02 := by
  simp only [plainCommand, ite_eq_iff, Option.some.injEq, reduceCtorEq, and_false, and_true, false_or, or_false] at h
  obtain ⟨_, _, hop⟩ := h
  exact hop

/-- No form of `SEAL` is `KEY_CLEAR`. -/
theorem sealForm_ne_keyClear (hex ivsrc : Bool) : sealForm hex ivsrc ≠ .keyClear := by
  cases hex <;> cases ivsrc <;> simp [sealForm]

/-- No form of `OPEN` is `KEY_CLEAR`. -/
theorem openForm_ne_keyClear (hex : Bool) : openForm hex ≠ .keyClear := by
  cases hex <;> simp [openForm]

/-- Only the word 0x00000002 decodes to `KEY_CLEAR` (30_encoding.md R123, R126). -/
theorem eq_encode_of_decode_keyClear {w : Word} (h : decode w = .ok .keyClear) : w = encode .keyClear := by
  suffices hfields : commandFields w = commandOf .keyClear by
    rw [← wordOfFields_commandFields w, hfields, encode]
  unfold decode at h
  dsimp only at h
  generalize commandFields w = f at h ⊢
  split at h
  · cases h
  next hrsv =>
  split at h
  · exact absurd (Except.ok.inj h) (sealForm_ne_keyClear _ _)
  split at h
  · split at h
    · cases h
    · exact absurd (Except.ok.inj h) (openForm_ne_keyClear _)
  split at h
  · cases h
  next i hi =>
  split at h
  · cases h
  next hflags =>
  cases h
  have hop := plainCommand_keyClear hi
  obtain ⟨op, hex, ivsrc, rsv⟩ := f
  simp_all [commandOf]

/-! ## What keeps the commitment -/

/-- The key is still committed, and its registers hold the same. -/
def CommitmentKept (s t : State) : Prop := t.keyValid = true ∧ SameKeyRegisters s t

/-- A move that touches no key register. -/
theorem commitmentKept_refl {s : State} (h : s.keyValid = true) : CommitmentKept s s := ⟨h, rfl, rfl, rfl, rfl, rfl⟩

/-- A draw keeps the commitment. -/
theorem entropyDraw_keeps_commitment {s : State} (h : s.keyValid = true) : CommitmentKept s (entropyDraw s).2 := by
  rcases entropyDraw_cases s with ⟨_, _, _, he⟩ | ⟨_, he⟩ <;> rw [he] <;> exact commitmentKept_refl h

/-- A command keeps the commitment, or it is `KEY_CLEAR` and ends it. -/
theorem execEnds_commitment {i : Instr} {s t : State} (h : s.keyValid = true) (ht : ExecEnds i s t) :
    CommitmentKept s t ∨ (i = .keyClear ∧ t.keyValid = false) := by
  cases ht with
  | plain => exact .inl (commitmentKept_refl h)
  | refusedKey hnone => simp [h] at hnone
  | committedKey hnone => simp [h] at hnone
  | clearedKey hi => exact .inr ⟨hi, rfl⟩
  | failedDraw => exact .inl (entropyDraw_keeps_commitment h)
  | draw => exact .inl (entropyDraw_keeps_commitment h)

/-- The engine's turn keeps the commitment, or it runs a pending `KEY_CLEAR`. -/
theorem engineTurn_commitment {s t : State} (h : s.keyValid = true) (ht : engineTurn s = .next t) :
    CommitmentKept s t ∨ (t.keyValid = false ∧ s.busy = true ∧ s.curcmd = encode .keyClear) := by
  unfold engineTurn at ht
  split at ht
  · next hbusy =>
    unfold engineStep at ht
    split at ht
    · next i hdecode =>
      obtain ⟨u, hu, hends⟩ := exec_ends i s
      cases hu.symm.trans ht
      rcases execEnds_commitment h hends with hkept | ⟨rfl, hcleared⟩
      · exact .inl hkept
      · exact .inr ⟨hcleared, hbusy, eq_encode_of_decode_keyClear hdecode⟩
    · cases ht
      exact .inl (commitmentKept_refl h)
  · cases ht
    exact .inl (commitmentKept_refl h)

/-- The host's register writes keep the commitment: the lock drops those to the key registers. -/
theorem regWrite_keeps_commitment {s : State} (h : s.keyValid = true) (r : Reg) (v : Word) :
    CommitmentKept s (regWrite r v s) := by
  unfold regWrite
  split
  · exact commitmentKept_refl h
  · cases r with
    | aesKey | keycfg | hkeyLen | hkey =>
      rw [regWriteIdle, unlessLocked_of_committed h]
      exact commitmentKept_refl h
    | _ => exact commitmentKept_refl h

/-- Every host access keeps the commitment. -/
theorem hostAccess_keeps_commitment {s : State} (h : s.keyValid = true) (a : Access) :
    CommitmentKept s (hostAccess a s) := by
  rcases hostAccess_cases a s with
    ⟨_, he⟩ | ⟨_, _, _, _, he⟩ | ⟨r, v, he⟩ | ⟨_, _, _, _, _, he⟩ | he | he <;> rw [he]
  case inr.inr.inl => exact regWrite_keeps_commitment h r v
  all_goals exact commitmentKept_refl h

/-- One step without a reset keeps the commitment, or it is the engine's step of a pending `KEY_CLEAR`. -/
theorem step_commitment {s t : State} (h : s.keyValid = true) (ht : step s = .next t) (hr : resetHasTurn s = false) :
    CommitmentKept s t ∨
      (t.keyValid = false ∧ engineHasTurn s = true ∧ s.busy = true ∧ s.curcmd = encode .keyClear) := by
  rcases step_cases s with ⟨hts, he⟩ | ⟨ts, hts, he⟩ | ⟨a, ts, hts, he⟩ | ⟨ts, hts, he⟩ <;> rw [he] at ht
  · exact (engineTurn_commitment h ht).imp_right fun ⟨hv, hword⟩ => ⟨hv, by simp [engineHasTurn, hts], hword⟩
  · exact (engineTurn_commitment (s := { s with turns := ts }) h ht).imp_right fun ⟨hv, hword⟩ =>
      ⟨hv, by simp [engineHasTurn, hts], hword⟩
  · cases ht
    exact .inl (hostAccess_keeps_commitment (s := { s with turns := ts }) h a)
  · simp [resetHasTurn, hts] at hr

/-- Settles O15: the lock for each key register, and `step_commitment` for every step. -/
theorem committedKeyIsLocked : Obligations.CommittedKeyIsLocked := by
  refine ⟨fun s v j k hv => ?_, fun s v j k hidle hv => ?_, fun s t hv ht hr => step_commitment hv ht hr⟩
  · exact ⟨regWrite_locked hv (by simp) rfl, regWrite_locked hv (by simp) rfl, regWrite_locked hv (by simp) rfl,
      regWrite_locked hv (by simp) rfl⟩
  · exact ⟨regWrite_unlocked hidle hv rfl, regWrite_unlocked hidle hv rfl, regWrite_unlocked hidle hv rfl,
      regWrite_unlocked hidle hv rfl⟩

end Sys2Proof.Machine
end

section
/-! The interrupt output (10_state.md R55, 60_exceptions.md R311). -/

namespace Sys2Proof.Machine

/-- Every command ends with `DONE` set and leaves `IRQ_EN` (40_control.md R151). -/
theorem execEnds_done {i : Instr} {s t : State} (ht : ExecEnds i s t) : t.done = true ∧ t.irqEn = s.irqEn := by
  have hdraw : (entropyDraw s).2.irqEn = s.irqEn := by
    rcases entropyDraw_cases s with ⟨_, _, _, he⟩ | ⟨_, he⟩ <;> rw [he]
  cases ht with
  | plain | refusedKey | committedKey | clearedKey => exact ⟨rfl, rfl⟩
  | failedDraw | draw => exact ⟨rfl, hdraw⟩

/-- Every completion raises the enabled interrupt. -/
theorem irq_of_exec {i : Instr} {s t : State} (ht : exec i s = .next t) : irq t = s.irqEn := by
  obtain ⟨u, hu, hends⟩ := exec_ends i s
  cases hu.symm.trans ht
  obtain ⟨hdone, hirqEn⟩ := execEnds_done hends
  rw [irq, hdone, hirqEn, Bool.and_true]

/-- Settles O57. -/
theorem irqFollowsDone : Obligations.IrqFollowsDone := by
  refine fun s => ⟨by simp [irq], fun i t ht => irq_of_exec ht, fun v hv => ?_, fun w hidle => ?_⟩
  · simp [irq, hv]
  · rw [regWrite_idle hidle]
    simp [irq, regWriteIdle]

end Sys2Proof.Machine
end

section
/-! Where a host access goes, and the accesses that reach no register and no byte (20_memory.md R80, R84 to R86). -/

namespace Sys2Proof.Machine

section
variable {s : State} {w : Width}

/-! ## The address map -/

/-- An access is at most a bus word wide (20_memory.md R82). -/
theorem bytes_le_four (w : Width) : w.bytes ≤ 4 := by
  cases w <;> decide

/-- The aperture begins at a multiple of every width, so alignment is the same from there (20_memory.md R80, R85). -/
theorem aperture_mod_bytes (w : Width) (d : Nat) : (0x10000 + d) % w.bytes = d % w.bytes := by
  cases w <;> simp only [Width.bytes] <;> omega

/-- The register space: aligned words at a register's offset (20_memory.md R84 to R86). -/
theorem placeOf_registerSpace {off : Nat} (h : off < 0x10000) :
    placeOf s w off =
      if w = .word ∧ off % 4 = 0 then (Reg.ofOffset off).elim .dropped .register else .dropped := by
  rw [placeOf, apertureBase, if_pos h]
  cases Reg.ofOffset off <;> rfl

/-- The DMEM aperture: aligned accesses inside the data memory (20_memory.md R80, R84 to R86). -/
theorem placeOf_aperture (d : Nat) :
    placeOf s w (0x10000 + d) = if d % w.bytes = 0 ∧ inRange s d w.bytes = true then .dmem d else .dropped := by
  rw [placeOf, apertureBase, if_neg (by omega), aperture_mod_bytes, Nat.add_sub_cancel_left]

/-- A word access at a register's offset goes to that register (10_state.md R33). -/
theorem placeOf_offset (r : Reg) : placeOf s .word (BitVec.ofNat 17 r.offset).toNat = .register r := by
  obtain ⟨haligned, hle⟩ := offset_aligned_le r
  have hoff : (BitVec.ofNat 17 r.offset).toNat = r.offset :=
    (BitVec.toNat_ofNat ..).trans (Nat.mod_eq_of_lt (by omega))
  rw [hoff, placeOf_registerSpace (by omega), if_pos ⟨rfl, haligned⟩, ofOffset_offset, Option.elim_some]

/-! ## Dropped accesses -/

/-- The illegal accesses (20_memory.md R85, R86): a narrow access to the register space, a misaligned one, a reserved
register offset, an access beyond the data memory. -/
def IllegalAccess (s : State) (w : Width) (off : Nat) : Prop :=
  (off < 0x10000 ∧ w ≠ .word) ∨ off % w.bytes ≠ 0 ∨ (off < 0x10000 ∧ Reg.ofOffset off = none) ∨
    0x10000 + s.params.dmemBytes < off + w.bytes

/-- An illegal access goes nowhere. No access to the register space reaches beyond the smallest legal data memory. -/
theorem placeOf_of_illegal {off : Nat} (h : IllegalAccess s w off) (hl : s.params.Legal) :
    placeOf s w off = .dropped := by
  by_cases hoff : off < 0x10000
  · rw [placeOf_registerSpace hoff]
    split
    · next hword =>
      obtain ⟨rfl, haligned⟩ := hword
      obtain ⟨_, hsize, _⟩ := hl
      rcases h with ⟨_, hnarrow⟩ | hmisaligned | ⟨_, hreserved⟩ | hbeyond
      · exact absurd rfl hnarrow
      · exact absurd haligned hmisaligned
      · rw [hreserved, Option.elim_none]
      · have := bytes_le_four .word
        omega
    · rfl
  · obtain ⟨d, rfl⟩ := Nat.exists_eq_add_of_le (Nat.not_lt.mp hoff)
    rw [placeOf_aperture, if_neg]
    rintro ⟨haligned, hin⟩
    have hinside : d + w.bytes ≤ s.params.dmemBytes := of_decide_eq_true hin
    rcases h with ⟨hlow, _⟩ | hmisaligned | ⟨hlow, _⟩ | hbeyond
    · exact hoff hlow
    · exact hmisaligned ((aperture_mod_bytes w d).trans haligned)
    · exact hoff hlow
    · omega

end

/-- Settles O45. -/
theorem illegalAccessesAreDropped : Obligations.IllegalAccessesAreDropped := by
  intro s w off v hillegal hlegal
  rw [hostAccess, hostAccess, placeOf_of_illegal hillegal hlegal]
  exact ⟨rfl, rfl⟩

/-! ## Accesses at a register's offset -/

/-- A word read at a register's offset answers with the register (10_state.md R33). -/
theorem hostAccess_read_offset (r : Reg) (s : State) :
    hostAccess (.read .word (BitVec.ofNat 17 r.offset)) s = { s with rdata := regRead s r } := by
  rw [hostAccess, placeOf_offset, readPlace]

/-- A word write at a register's offset is the write to that register (10_state.md R33). -/
theorem hostAccess_write_offset (r : Reg) (v : Word) (s : State) :
    hostAccess (.write .word (BitVec.ofNat 17 r.offset) v) s = regWrite r v s := by
  rw [hostAccess, placeOf_offset, writePlace]

end Sys2Proof.Machine
end

section
/-! The lanes of the host's accesses to the data memory (20_memory.md R82). -/

namespace Sys2Proof.Machine

/-- Lane `l` of the word that a byte string makes is byte `l` of the string (00_scope.md R10). -/
theorem le32_lane (b : Bytes) (l : Fin 4) : (le32 b).extractLsb' (8 * l.val) 8 = b.getD l.val 0 := by
  rw [le32]
  fin_cases l
  · exact BitVec.extractLsb'_append_eq_right
  · rw [BitVec.extractLsb'_append_eq_of_le (by decide)]
    exact BitVec.extractLsb'_append_eq_right
  · iterate 2 rw [BitVec.extractLsb'_append_eq_of_le (by decide)]
    exact BitVec.extractLsb'_append_eq_right
  · iterate 3 rw [BitVec.extractLsb'_append_eq_of_le (by decide)]
    exact BitVec.extractLsb'_eq_self

/-- The reply to a read of `n` bytes holds byte `k` of the region in lane `k`. -/
theorem le32_memRead_lane (s : State) (a : Nat) {n k : Nat} (hk : k < n) (hn : n ≤ 4) :
    (le32 (memRead s a n)).extractLsb' (8 * k) 8 = s.byteAt (a + k) := by
  rw [le32_lane _ ⟨k, by omega⟩, List.getD_eq_getElem?_getD, memRead_getElem? s a hk, Option.getD_some]

/-- The low bytes of the bus data that a write of width `w` stores (20_memory.md R82). -/
def writtenBytes (w : Width) (v : Word) : Bytes := (wordLE v).take w.bytes

/-- A write stores as many bytes as it is wide. -/
theorem writtenBytes_length (w : Width) (v : Word) : (writtenBytes w v).length = w.bytes :=
  List.length_take_of_le (bytes_le_four w)

/-- Byte `k` that a write stores is lane `k` of the bus data. -/
theorem writtenBytes_getElem {w : Width} (v : Word) {k : Nat} (hk : k < (writtenBytes w v).length) :
    (writtenBytes w v)[k] = v.extractLsb' (8 * k) 8 := by
  have hw : k < w.bytes := writtenBytes_length w v ▸ hk
  apply Option.some.inj
  rw [← List.getElem?_eq_getElem hk, writtenBytes, List.getElem?_take_of_lt hw]
  exact wordLE_getElem? v ⟨k, hw.trans_le (bytes_le_four w)⟩

section
variable {s : State} {w : Width} {off : BitVec 17} {a : Nat}

/-- A legal access to the aperture goes to the data memory (20_memory.md R80, R84). -/
theorem placeOf_dmem_of_legal (hoff : off.toNat = 0x10000 + a) (haligned : a % w.bytes = 0)
    (hin : a + w.bytes ≤ s.params.dmemBytes) : placeOf s w off.toNat = .dmem a := by
  rw [hoff, placeOf_aperture, if_pos ⟨haligned, decide_eq_true hin⟩]

/-- A write to the data memory of an idle engine stores the low bytes of the bus data. -/
theorem hostAccess_write_dmem (hidle : s.busy = false) (hplace : placeOf s w off.toNat = .dmem a) (v : Word) :
    hostAccess (.write w off v) s = memWrite a (writtenBytes w v) s := by
  simp [hostAccess, hplace, writePlace, hidle, writtenBytes]

/-- A read of the data memory of an idle engine answers with its bytes. -/
theorem hostAccess_read_dmem (hidle : s.busy = false) (hplace : placeOf s w off.toNat = .dmem a) :
    hostAccess (.read w off) s = { s with rdata := le32 (memRead s a w.bytes) } := by
  simp [hostAccess, hplace, readPlace, hidle]

end

/-- Settles O54. -/
theorem hostLanesAreLittleEndian : Obligations.HostLanesAreLittleEndian := by
  intro s w off v a hidle hoff haligned hin
  have hplace := placeOf_dmem_of_legal hoff haligned hin
  constructor
  · refine ⟨_, hostAccess_write_dmem hidle hplace v, rfl, fun b hb => ?_, fun k hk => ?_⟩
    · rw [← writtenBytes_length w v] at hb
      exact byteAt_outside (memWrite_dmem ..) rfl hb
    · rw [← writtenBytes_length w v] at hk
      exact (byteAt_written (s := s) (memWrite_dmem ..) hk).trans (writtenBytes_getElem v hk)
  · exact ⟨_, hostAccess_read_dmem hidle hplace, rfl, fun k hk => le32_memRead_lane s a hk (bytes_le_four w)⟩

end Sys2Proof.Machine
end

section
/-! What the host can do while a command runs (20_memory.md R87, R94): its accesses touch nothing but `ACCERR` and its
own last reply, and no command reads either. -/

namespace Sys2Proof.Machine

/-- The state with another `ACCERR` and another last reply of the host. -/
def withReply (e : Bool) (d : Word) (s : State) : State := { s with accErr := e, rdata := d }

/-! ## The busy engine -/

/-- A busy engine drops every access to the aperture, legal or not (20_memory.md R86, R87). -/
theorem hostAccess_aperture_busy {s : State} (hbusy : s.busy = true) (w : Width) {off : BitVec 17} (v : Word)
    (hoff : 0x10000 ≤ off.toNat) :
    hostAccess (.read w off) s = dropRead s ∧ hostAccess (.write w off v) s = dropAccess s := by
  obtain ⟨d, hd⟩ := Nat.exists_eq_add_of_le hoff
  rw [hostAccess, hostAccess, hd, placeOf_aperture]
  split
  · simp [readPlace, writePlace, hbusy]
  · exact ⟨rfl, rfl⟩

/-- A write to `STATUS` while `DONE` is 0 can clear nothing but `ACCERR` (10_state.md R37). -/
theorem writeStatus_of_not_done {s : State} (hdone : s.done = false) (v : Word) :
    writeStatus v s = withReply (writeStatus v s).accErr (writeStatus v s).rdata s := by
  have hstays : (s.done && !v.getLsbD 1) = s.done := by rw [hdone, Bool.false_and]
  rw [writeStatus, hstays]
  rfl

/-- A register write to a busy engine: dropped, or the one to `STATUS` (20_memory.md R87). -/
theorem regWrite_of_busy {s : State} (hbusy : s.busy = true) (hdone : s.done = false) (r : Reg) (v : Word) :
    regWrite r v s = withReply (regWrite r v s).accErr (regWrite r v s).rdata s := by
  by_cases hr : r = .status
  · subst hr
    rw [regWrite_status]
    exact writeStatus_of_not_done hdone v
  · rw [regWrite_busy hbusy hr]
    rfl

/-- No host access to a busy engine changes more than `ACCERR` and the host's reply (20_memory.md R87). -/
theorem hostAccess_of_busy {s : State} (hbusy : s.busy = true) (hdone : s.done = false) (a : Access) :
    hostAccess a s = withReply (hostAccess a s).accErr (hostAccess a s).rdata s := by
  rcases hostAccess_cases a s with
    ⟨r, he⟩ | ⟨d, w, hidle, _, he⟩ | ⟨r, v, he⟩ | ⟨d, w, v, hidle, _, he⟩ | he | he
  · rw [he]
    rfl
  · simp [hbusy] at hidle
  · rw [he]
    exact regWrite_of_busy hbusy hdone r v
  · simp [hbusy] at hidle
  · rw [he]
    rfl
  · rw [he]
    rfl

/-- Settles O46: the register writes, the aperture, the register map, the invariant's clause on `BUSY`, and
`hostAccess_of_busy` for every access. -/
theorem busyFreezesTheOperands : Obligations.BusyFreezesTheOperands := by
  refine ⟨fun s r v hbusy hr => regWrite_busy hbusy hr v, fun s v _ => regWrite_status v s,
    fun s w off v hbusy hoff => hostAccess_aperture_busy hbusy w v hoff, fun s r => hostAccess_read_offset r s,
    fun s r v => hostAccess_write_offset r v s, fun s hinv hbusy => ?_,
    fun s a hbusy hdone => hostAccess_of_busy hbusy hdone a⟩
  obtain ⟨_, _, _, hwhileBusy, _⟩ := hinv
  exact hwhileBusy hbusy

/-! ## What the commands read

The stages, the draw, the bodies and the completion read neither field and carry both along. -/

section
variable (e : Bool) (d : Word) (s : State)

/-- The check stages read neither `ACCERR` nor the host's reply. -/
theorem firstFailure_withReply (c : Checks) : c.firstFailure (withReply e d s) = c.firstFailure s := by
  obtain ⟨_, _, _, target⟩ := c
  cases target <;> rfl

/-- A command without a draw carries both along. -/
theorem runCommand_withReply (c : Checks) (r : Except Failure Bytes) :
    runCommand c r (withReply e d s) = withReply e d (runCommand c r s) := by
  rw [runCommand, runCommand, firstFailure_withReply]
  split <;> rfl

/-- A draw carries both along. -/
theorem entropyDraw_withReply :
    entropyDraw (withReply e d s) = ((entropyDraw s).1, withReply e d (entropyDraw s).2) := by
  rcases entropyDraw_cases s with ⟨_, _, hlisted, he⟩ | ⟨hlisted, he⟩ <;> rw [he] <;>
    simp [entropyDraw, withReply, hlisted]

/-- A command with a draw carries both along. -/
theorem runDrawingCommand_withReply (c : Checks) (body : Bytes → Except Failure Bytes) :
    runDrawingCommand c body (withReply e d s) = withReply e d (runDrawingCommand c body s) := by
  have hlatch : (withReply e d s).rngFail = s.rngFail := rfl
  rw [runDrawingCommand, runDrawingCommand, firstFailure_withReply, entropyDraw_withReply, hlatch]
  split
  · rfl
  · split
    · rfl
    · cases (entropyDraw s).1 <;> rfl

/-- Every command carries both along. -/
theorem exec_withReply (i : Instr) :
    ∃ u, exec i s = .next u ∧ exec i (withReply e d s) = .next (withReply e d u) := by
  cases i with
  | nop | keyClear => exact ⟨_, rfl, rfl⟩
  | keyCommit =>
    have hvalid : (withReply e d s).keyValid = s.keyValid := rfl
    have hlegal : keyConfigLegal (withReply e d s) = keyConfigLegal s := rfl
    simp only [exec, execKeyCommit, hvalid, hlegal]
    split
    · exact ⟨_, rfl, rfl⟩
    · split <;> exact ⟨_, rfl, rfl⟩
  | sealBin | sealHex => exact ⟨_, rfl, congrArg Host.Outcome.next (runDrawingCommand_withReply e d s _ _)⟩
  | pad | unpad | aesCbcEnc | aesCbcDec | hmacGen | hmacVerify | hexEnc | hexDec | sealInj | sealHexInj | openBin
  | openHex => exact ⟨_, rfl, congrArg Host.Outcome.next (runCommand_withReply e d s _ _)⟩

end

/-- Settles O47: the access changes `ACCERR` and the reply alone, and the command carries them along. -/
theorem busyAccessesDoNotChangeTheResult : Obligations.BusyAccessesDoNotChangeTheResult := by
  intro i s a hbusy hdone
  obtain ⟨u, hu, ht⟩ := exec_withReply (hostAccess a s).accErr (hostAccess a s).rdata s i
  rw [← hostAccess_of_busy hbusy hdone a] at ht
  exact ⟨_, u, hu, ht, rfl⟩

end Sys2Proof.Machine
end

section
/-! The command words (30_encoding.md): the fields of a word and the word of its fields, what the decoder answers on the
fields, which fields are legal, and the engine's step on an illegal word. -/

namespace Sys2Proof.Machine

/-! ## A word and its fields -/

/-- The word of given fields has these fields (30_encoding.md R121). -/
@[simp] theorem commandFields_wordOfFields (f : CommandFields) : commandFields (wordOfFields f) = f := by
  obtain ⟨op, hex, ivsrc, rsv⟩ := f
  simp only [commandFields, wordOfFields, CommandFields.mk.injEq]
  refine ⟨BitVec.extractLsb'_append_eq_right, ?_, ?_, ?_⟩
  · simp only [BitVec.getLsbD_append]
    simp
  · simp only [BitVec.getLsbD_append]
    simp
  · iterate 3 rw [BitVec.extractLsb'_append_eq_of_le (by decide)]
    exact BitVec.extractLsb'_eq_self

/-- A command's word is the word with that command's fields: fields and words determine each other. -/
theorem encode_eq_iff (i : Instr) (w : Word) : encode i = w ↔ commandFields w = commandOf i := by
  constructor
  · rintro rfl
    exact commandFields_wordOfFields _
  · intro h
    rw [encode, ← h, wordOfFields_commandFields]

/-! ## The fields of the three families of commands -/

/-- The fields of the `SEAL` form that two flags select (30_encoding.md R123). -/
@[simp] theorem commandOf_sealForm (hex ivsrc : Bool) : commandOf (sealForm hex ivsrc) = ⟨0x50, hex, ivsrc, 0⟩ := by
  cases hex <;> cases ivsrc <;> rfl

/-- The fields of the `OPEN` form that a flag selects (30_encoding.md R123). -/
@[simp] theorem commandOf_openForm (hex : Bool) : commandOf (openForm hex) = ⟨0x51, hex, false, 0⟩ := by
  cases hex <;> rfl

/-- The fields of a command without flags (30_encoding.md R123). -/
theorem commandOf_plainCommand {op : Byte} {i : Instr} (h : plainCommand op = some i) :
    commandOf i = ⟨op, false, false, 0⟩ := by
  unfold plainCommand at h
  iterate 11
    split at h
    · next hop =>
      cases h
      rw [hop]
      rfl
  cases h

/-- Every assigned operation but those of `SEAL` and `OPEN` is that of a command without flags (30_encoding.md R123). -/
theorem exists_plainCommand {op : Byte} (h : op ∈ assignedOps) (hseal : op ≠ 0x50) (hopen : op ≠ 0x51) :
    ∃ i, plainCommand op = some i := by
  have htable : ∀ op ∈ assignedOps, op = 0x50 ∨ op = 0x51 ∨ (plainCommand op).isSome = true := by decide
  exact Option.isSome_iff_exists.1 (((htable op h).resolve_left hseal).resolve_left hopen)

/-! ## The decoder -/

/-- A word that decodes to a command has that command's fields: in each branch the decoder has looked at all four. -/
theorem commandFields_of_decode {w : Word} {i : Instr} (h : decode w = .ok i) : commandFields w = commandOf i := by
  unfold decode at h
  dsimp only at h
  generalize commandFields w = f at h ⊢
  obtain ⟨op, hex, ivsrc, rsv⟩ := f
  dsimp only at h
  split at h
  · cases h
  next hrsv =>
  obtain rfl := not_not.mp hrsv
  split at h
  · next hseal =>
    cases h
    rw [commandOf_sealForm, hseal]
  split at h
  · next hopen =>
    split at h
    · cases h
    · next hivsrc =>
      cases h
      rw [commandOf_openForm, hopen, Bool.eq_false_of_not_eq_true hivsrc]
  split at h
  · cases h
  next hplain =>
  split at h
  · cases h
  · next hflags =>
    cases h
    obtain ⟨rfl, rfl⟩ : hex = false ∧ ivsrc = false := by simpa using hflags
    exact (commandOf_plainCommand hplain).symm

/-- A word with a command's fields decodes to that command (30_encoding.md R126). -/
theorem decode_of_commandFields {w : Word} {i : Instr} (h : commandFields w = commandOf i) : decode w = .ok i := by
  rw [decode, h]
  cases i <;> rfl

/-- The decoder reads the table of commands and their fields, and nothing else. -/
theorem decode_eq_ok_iff (w : Word) (i : Instr) : decode w = .ok i ↔ commandFields w = commandOf i :=
  ⟨commandFields_of_decode, decode_of_commandFields⟩

/-- Settles O1: a word decodes to a command exactly when it has its fields, and that is when it is its word. -/
theorem decodeAndEncodeAgree : Obligations.DecodeAndEncodeAgree :=
  fun w i => (decode_eq_ok_iff w i).trans (encode_eq_iff i w).symm

/-- Settles O3: each word is the command's word. -/
theorem writtenWordsDecode : Obligations.WrittenWordsDecode := by
  refine ⟨?_, ?_, ?_, ?_, ?_, ?_, ?_, ?_⟩ <;> exact (decodeAndEncodeAgree _ _).2 (by decide)

/-! ## The legal words -/

/-- What R124 asks of the fields of a legal word. -/
theorem legal_iff (f : CommandFields) : f.legal = true ↔
    f.op ∈ assignedOps ∧ f.rsv = 0 ∧ (f.hex = true → f.op = 0x50 ∨ f.op = 0x51) ∧ (f.ivsrc = true → f.op = 0x50) := by
  simp [CommandFields.legal, CommandFields.opAssigned, CommandFields.rsvZero, CommandFields.flagsAllowed,
    imp_iff_not_or, and_assoc, or_assoc]

/-- Every command's fields are legal. -/
theorem legal_commandOf (i : Instr) : (commandOf i).legal = true := by
  cases i <;> rfl

/-- Legal fields are those of a command: of a form of `SEAL` or of `OPEN`, or of the command without flags. -/
theorem exists_commandOf_of_legal {f : CommandFields} (h : f.legal = true) : ∃ i, f = commandOf i := by
  obtain ⟨hop, hrsv, hhex, hivsrc⟩ := (legal_iff f).1 h
  obtain ⟨op, hex, ivsrc, rsv⟩ := f
  dsimp only at hop hrsv hhex hivsrc
  subst hrsv
  by_cases hseal : op = 0x50
  · exact ⟨sealForm hex ivsrc, by rw [commandOf_sealForm, hseal]⟩
  obtain rfl : ivsrc = false := Bool.eq_false_of_not_eq_true fun hi => hseal (hivsrc hi)
  by_cases hopen : op = 0x51
  · exact ⟨openForm hex, by rw [commandOf_openForm, hopen]⟩
  obtain rfl : hex = false := Bool.eq_false_of_not_eq_true fun hh => (hhex hh).elim hseal hopen
  obtain ⟨i, hi⟩ := exists_plainCommand hop hseal hopen
  exact ⟨i, (commandOf_plainCommand hi).symm⟩

/-- A word decodes to some command exactly when its fields are legal (30_encoding.md R124, R126). -/
theorem decodes_iff_legal (w : Word) : (∃ i, decode w = .ok i) ↔ (commandFields w).legal = true := by
  simp only [decode_eq_ok_iff]
  constructor
  · rintro ⟨i, hi⟩
    exact hi ▸ legal_commandOf i
  · exact exists_commandOf_of_legal

/-! ## The engine on an illegal word -/

/-- The engine's step on an illegal word is the completion with `E_CMD` (30_encoding.md R124, 40_control.md R150). -/
theorem engineStep_of_illegal {s : State} (h : ¬ ∃ i, decode s.curcmd = .ok i) :
    engineStep s = .next (complete (.error .cmd) s) := by
  unfold engineStep
  split
  · next i hi => exact absurd ⟨i, hi⟩ h
  · rfl

/-- The engine's turn on an illegal word, while it is busy. -/
theorem engineTurn_of_illegal {s : State} (hbusy : s.busy = true) (h : ¬ ∃ i, decode s.curcmd = .ok i) :
    engineTurn s = .next (complete (.error .cmd) s) := by
  rw [engineTurn, if_pos hbusy, engineStep_of_illegal h]

/-- Settles O2: legality is that of the fields, and the completion with an error code has no other effect. -/
theorem illegalWordsEndWithCommandError : Obligations.IllegalWordsEndWithCommandError := by
  refine ⟨fun w => (decodes_iff_legal w).trans (legal_iff _), fun w s hidle => ?_,
    fun s hillegal => ⟨_, engineStep_of_illegal hillegal, complete_error_spec s .cmd⟩,
    fun s hbusy hturns hillegal => ⟨_, ?_, complete_error_spec s .cmd⟩,
    fun s ts hbusy hturns hillegal => ⟨_, ?_, complete_error_spec { s with turns := ts } .cmd⟩,
    fun w => (decodeAndEncodeAgree w .nop).trans eq_comm⟩
  · rw [regWrite_idle hidle]
    exact ⟨rfl, rfl, rfl⟩
  · rw [step, hturns]
    exact engineTurn_of_illegal hbusy hillegal
  · rw [step, hturns]
    exact engineTurn_of_illegal hbusy hillegal

end Sys2Proof.Machine
end

section
/-! The execution frame (40_control.md R150 to R152): whose turn a step is, that every command completes, and the check
stages S2 to S7. -/

namespace Sys2Proof.Machine

/-! ## The engine's turn -/

/-- A busy engine runs the command that `CURCMD` decodes to (40_control.md R150). -/
theorem engineTurn_of_decode {s : State} {i : Instr} (hbusy : s.busy = true) (hi : decode s.curcmd = .ok i) :
    engineTurn s = exec i s := by
  rw [engineTurn, if_pos hbusy, engineStep, hi]

/-- An idle engine does nothing in its turn (60_exceptions.md R321). -/
theorem engineTurn_of_idle {s : State} (hidle : s.busy = false) : engineTurn s = .next s := by
  simp [engineTurn, hidle]

/-- With no turn left the engine moves. -/
theorem step_of_turns_nil {s : State} (h : s.turns = []) : step s = engineTurn s := by
  rw [step, h]

/-- The engine moves when it has the next turn. -/
theorem step_of_turns_engine {s : State} {ts : List Turn} (h : s.turns = .engine :: ts) :
    step s = engineTurn { s with turns := ts } := by
  rw [step, h]

/-- When the engine moves, its turn, if one is listed, is taken off the list. -/
theorem step_of_engineHasTurn {s : State} (h : engineHasTurn s = true) :
    step s = engineTurn { s with turns := s.turns.tail } := by
  rcases step_cases s with ⟨hts, he⟩ | ⟨ts, hts, he⟩ | ⟨a, ts, hts, _⟩ | ⟨ts, hts, _⟩
  · rw [he, hts, List.tail_nil, ← hts]
  · rw [he, hts, List.tail_cons]
  · simp [engineHasTurn, hts] at h
  · simp [engineHasTurn, hts] at h

/-- Settles O4. -/
theorem stepRunsTheDecodedCommand : Obligations.StepRunsTheDecodedCommand := by
  refine ⟨fun s i hbusy hi hts => ?_, fun s i ts hbusy hi hts => ?_, fun s hidle hturn => ?_, fun s a ts hts => ?_⟩
  · rw [step_of_turns_nil hts, engineTurn_of_decode hbusy hi]
  · rw [step_of_turns_engine hts]
    exact engineTurn_of_decode hbusy hi
  · rw [step_of_engineHasTurn hturn]
    exact engineTurn_of_idle hidle
  · rw [step, hts]

/-! ## The accepted command word -/

/-- `withFetchWord` lists the engine's turn before the turns of the state, if there are any: once it is taken, nothing but
the accepted `CMD` write is left. -/
theorem step_withFetchWord (s : State) (w : Word) :
    step (s.withFetchWord 32 w.toNat) = engineTurn (acceptCommand w s) := by
  have hword : BitVec.ofNat 32 (w.toNat % 2 ^ 32) = w := by
    rw [Nat.mod_eq_of_lt w.isLt, BitVec.ofNat_toNat, BitVec.setWidth_eq]
  have hturn : engineHasTurn (s.withFetchWord 32 w.toNat) = true := by
    cases hts : s.turns <;> simp [State.withFetchWord, engineHasTurn, engineFirst, hts]
  have htail : (s.withFetchWord 32 w.toNat).turns.tail = s.turns := by
    cases hts : s.turns <;> simp [State.withFetchWord, engineFirst, hts]
  rw [step_of_engineHasTurn hturn, htail, State.withFetchWord, hword]
  rfl

/-- Settles O5: the word decodes to its command. -/
theorem fetchWordRunsNext : Obligations.FetchWordRunsNext := by
  intro s i
  rw [step_withFetchWord]
  exact engineTurn_of_decode rfl ((decodeAndEncodeAgree _ i).2 rfl)

/-! ## Every command completes -/

/-- The command that moved the engine from `s` to `t` is over; if it ended with an error, it wrote nothing
(40_control.md R151, 20_memory.md R93). -/
def Completes (s t : State) : Prop :=
  t.busy = false ∧ t.done = true ∧ (t.err ≠ none → t.outLen = 0 ∧ SameBytes s t)

/-- The completion is the only place where a command writes bytes: it completes a command that started in `s` from any
state `u` with the data memory of `s`. -/
theorem complete_completes {s u : State} (hdmem : u.dmem = s.dmem) (hresets : u.resets = s.resets)
    (r : Except Failure Bytes) : Completes s (complete r u) := by
  cases r with
  | ok out => exact ⟨rfl, rfl, fun herr => absurd rfl herr⟩
  | error e => exact ⟨rfl, rfl, fun _ => ⟨rfl, fun b => byteAt_congr hdmem hresets b⟩⟩

/-- A draw leaves the data memory. -/
theorem entropyDraw_memory (s : State) :
    (entropyDraw s).2.dmem = s.dmem ∧ (entropyDraw s).2.resets = s.resets := by
  rcases entropyDraw_cases s with ⟨_, _, _, he⟩ | ⟨_, he⟩ <;> rw [he] <;> exact ⟨rfl, rfl⟩

/-- Every way in which a command can end is a completion. -/
theorem execEnds_completes {i : Instr} {s t : State} (ht : ExecEnds i s t) : Completes s t := by
  obtain ⟨hdmem, hresets⟩ := entropyDraw_memory s
  cases ht with
  | plain | refusedKey | committedKey | clearedKey => exact complete_completes rfl rfl _
  | failedDraw => exact complete_completes (u := { (entropyDraw s).2 with rngFail := true }) hdmem hresets _
  | draw => exact complete_completes hdmem hresets _

/-- The busy engine completes in its turn, on a legal command word or an illegal one. -/
theorem engineTurn_completes {s : State} (hbusy : s.busy = true) : ∃ t, engineTurn s = .next t ∧ Completes s t := by
  by_cases hlegal : ∃ i, decode s.curcmd = .ok i
  · obtain ⟨i, hi⟩ := hlegal
    obtain ⟨t, ht, hends⟩ := exec_ends i s
    exact ⟨t, (engineTurn_of_decode hbusy hi).trans ht, execEnds_completes hends⟩
  · exact ⟨_, engineTurn_of_illegal hbusy hlegal, complete_completes rfl rfl _⟩

/-- Settles O6. -/
theorem everyAcceptedCommandCompletes : Obligations.EveryAcceptedCommandCompletes := by
  intro s hbusy hturn
  rw [step_of_engineHasTurn hturn]
  exact engineTurn_completes (s := { s with turns := s.turns.tail }) hbusy

/-! ## The check stages -/

/-- The three commands of 40_control.md run none of the stages S2 to S7. -/
theorem not_stageRaises_of_no_checks {i : Instr} {s : State} (h : checksOf i s = none) (e : Failure) :
    ¬ StageRaises i s e := by
  cases i with
  | nop | keyCommit | keyClear =>
    simp [StageRaises, failsS2, failsS3, failsS4, failsS5, failsS6, failsS7, usesInjectedIv, needsKey, readsSource,
      badLength, maxOut]
  | _ => cases h

/-- The checks in their order, each stated as `stages_iff` states it. -/
theorem firstFailure_eq (c : Checks) (s : State) : c.firstFailure s =
    if c.injected = true ∧ injectionEnabled s = false then some .cmd
    else if c.keyed = true ∧ s.keyValid = false then some .noKey
    else if inRange s s.srcAddr.toNat s.srcLen.toNat = false then some .range
    else if c.badLength = true then some .format
    else if c.target.fits s = false then some .range
    else if c.target.overlapsSource s = true then some .overlap
    else none := by
  simp [Checks.firstFailure]

/-- The first stage of 40_control.md R152 that raises is the first failure that the checks find. -/
theorem firstFailure_of_stageRaises {i : Instr} {s : State} {c : Checks} {e : Failure} (hc : checksOf i s = some c)
    (h : StageRaises i s e) : c.firstFailure s = some e := by
  obtain ⟨h2, h3, h4, h5, h6, h7⟩ := stages_iff hc
  rw [StageRaises, h2, h3, h4, h5, h6, h7] at h
  rw [firstFailure_eq]
  rcases h with ⟨f2, rfl⟩ | ⟨p2, f3, rfl⟩ | ⟨p2, p3, f4, rfl⟩ | ⟨p2, p3, p4, f5, rfl⟩ | ⟨p2, p3, p4, p5, f6, rfl⟩ |
    ⟨p2, p3, p4, p5, p6, f7, rfl⟩
  · rw [if_pos f2]
  · rw [if_neg p2, if_pos f3]
  · rw [if_neg p2, if_neg p3, if_pos f4]
  · rw [if_neg p2, if_neg p3, if_neg p4, if_pos f5]
  · rw [if_neg p2, if_neg p3, if_neg p4, if_neg p5, if_pos f6]
  · rw [if_neg p2, if_neg p3, if_neg p4, if_neg p5, if_neg p6, if_pos f7]

/-- A command whose checks find a failure is the completion with that error, whether or not it would have drawn. -/
theorem exec_of_firstFailure {i : Instr} {s : State} {c : Checks} {e : Failure} (hc : checksOf i s = some c)
    (he : c.firstFailure s = some e) : exec i s = .next (complete (.error e) s) := by
  rcases exec_checks i s hc with ⟨r, hr⟩ | ⟨b, hb⟩
  · rw [hr, runCommand, he]
  · rw [hb, runDrawingCommand, he]

/-- Settles O9. -/
theorem firstFailingStageDecidesTheCode : Obligations.FirstFailingStageDecidesTheCode := by
  intro i s e h
  cases hc : checksOf i s with
  | none => exact absurd h (not_stageRaises_of_no_checks hc e)
  | some c => exact ⟨_, exec_of_firstFailure hc (firstFailure_of_stageRaises hc h), complete_error_spec s e⟩

end Sys2Proof.Machine
end

section
/-! `NOP` and the commands that manage the key register file (40_control.md R153 to R155). -/

namespace Sys2Proof.Machine

/-- The completion with `E_OK` and no output changes nothing but `STATUS` and `OUT_LEN` (40_control.md R151). -/
theorem complete_empty_spec (s : State) :
    (complete (.ok []) s).err = none ∧ (complete (.ok []) s).outLen = 0 ∧ (complete (.ok []) s).busy = false ∧
    (complete (.ok []) s).done = true ∧ SameBytes s (complete (.ok []) s) ∧ Unchanged s (complete (.ok []) s) :=
  ⟨rfl, rfl, rfl, rfl, fun b => byteAt_congr rfl rfl b, (complete_ok_spec s (by decide)).2⟩

/-- Settles O10. -/
theorem nopCompletesWithoutEffect : Obligations.NopCompletesWithoutEffect :=
  fun s => ⟨_, rfl, complete_empty_spec s⟩

/-! ## `KEY_COMMIT` -/

/-- The configurations that `KEY_COMMIT` accepts (40_control.md R153). -/
theorem keyConfigLegal_iff (s : State) : keyConfigLegal s = true ↔
    s.keyMode = 0x01 ∧ (s.keySize = 128 ∨ s.keySize = 256) ∧ s.hkeyLen.toNat ≤ 64 := by
  simp [keyConfigLegal, and_assoc]

/-- The configurations that `KEY_COMMIT` refuses (40_control.md R153, 60_exceptions.md R303). -/
theorem keyConfigLegal_eq_false_iff (s : State) : keyConfigLegal s = false ↔
    s.keyMode ≠ 0x01 ∨ (s.keySize ≠ 128 ∧ s.keySize ≠ 256) ∨ 64 < s.hkeyLen.toNat := by
  rw [← Bool.not_eq_true, keyConfigLegal_iff]
  simp only [not_and_or, not_or, not_le, ne_eq]

/-- A committed key is not checked again. -/
theorem exec_keyCommit_of_committed {s : State} (h : s.keyValid = true) :
    exec .keyCommit s = .next (complete (.ok []) s) := by
  simp [exec, execKeyCommit, h]

/-- A legal configuration is committed. -/
theorem exec_keyCommit_of_legal {s : State} (h : s.keyValid = false) (hk : keyConfigLegal s = true) :
    exec .keyCommit s = .next (complete (.ok []) { s with keyValid := true }) := by
  simp [exec, execKeyCommit, h, hk]

/-- An illegal configuration is refused. -/
theorem exec_keyCommit_of_illegal {s : State} (h : s.keyValid = false) (hk : keyConfigLegal s = false) :
    exec .keyCommit s = .next (complete (.error .config) s) := by
  simp [exec, execKeyCommit, h, hk]

/-- Settles O11. -/
theorem keyCommitValidatesALegalKey : Obligations.KeyCommitValidatesALegalKey := by
  intro s hnone hmode hsize hlen
  have hlegal : keyConfigLegal s = true := (keyConfigLegal_iff s).2 ⟨hmode, hsize, hlen⟩
  obtain ⟨herr, hout, hbusy, hdone, hbytes, hkeys, hoperands, houtside, hdraw, hvalid⟩ :=
    complete_empty_spec { s with keyValid := true }
  exact ⟨_, exec_keyCommit_of_legal hnone hlegal, hvalid, herr, hout, hbusy, hdone, hbytes, hkeys, hoperands, houtside,
    hdraw⟩

/-- Settles O12. -/
theorem keyCommitRefusesAnIllegalKey : Obligations.KeyCommitRefusesAnIllegalKey := by
  constructor
  · intro s hnone hbad
    exact ⟨_, exec_keyCommit_of_illegal hnone ((keyConfigLegal_eq_false_iff s).2 hbad), complete_error_spec s .config⟩
  · intro s hvalid
    obtain ⟨herr, hout, _, _, hbytes, hsame⟩ := complete_empty_spec s
    exact ⟨_, exec_keyCommit_of_committed hvalid, herr, hout, hbytes, hsame⟩

/-! ## `KEY_CLEAR` -/

/-- Every word of the erased key registers is 0, and so are the words that `KEYCFG` and `HKEY_LEN` read
(40_control.md R154). -/
theorem clearKeys_registers (s : State) :
    (∀ k : Fin 8, (clearKeys s).aesKey[k] = 0) ∧ (∀ k : Fin 16, (clearKeys s).hkey[k] = 0) ∧
    keycfgWord (clearKeys s) = 0 ∧ hkeyLenWord (clearKeys s) = 0 :=
  ⟨fun k => by simp, fun k => by simp, by simp [keycfgWord], by simp [hkeyLenWord]⟩

/-- Settles O14: the erased registers, and the frame of the completion. -/
theorem keyClearErasesTheKeyFile : Obligations.KeyClearErasesTheKeyFile := by
  intro s
  obtain ⟨haes, hhmac, hconfig, hlength⟩ := clearKeys_registers s
  obtain ⟨herr, hout, hbusy, hdone, hbytes, _, hoperands, houtside, hdraw, hvalid⟩ := complete_empty_spec (clearKeys s)
  exact ⟨_, rfl, hvalid, haes, hhmac, hconfig, hlength, herr, hout, hbusy, hdone, hbytes, hoperands, houtside, hdraw⟩

end Sys2Proof.Machine
end

section
/-! The block padder (41_padding.md): the two equations of `Unpad`, the last byte that `Pad` writes, and the commands `PAD`
and `UNPAD` of a source that passes the stages. -/

namespace Sys2Proof.Machine

/-! ## `Pad` -/

/-- A pad is never empty and never longer than a block (41_padding.md R170). -/
theorem padLength_range (len : Nat) : 1 ≤ padLength len ∧ padLength len ≤ 16 := by
  have hmod : len % 16 < 16 := Nat.mod_lt _ (by decide)
  simp only [padLength, blk_eq]
  omega

/-- A pad length fits a byte, so that the last byte of a padded string gives it back. -/
theorem padLength_toNat (len : Nat) : (BitVec.ofNat 8 (padLength len)).toNat = padLength len := by
  obtain ⟨-, hle⟩ := padLength_range len
  rw [BitVec.toNat_ofNat, Nat.mod_eq_of_lt (by omega)]

/-- The length of a padded string, as its two parts. -/
theorem padBytes_length_add (d : Bytes) : (padBytes d).length = d.length + padLength d.length := by
  rw [padBytes, List.length_append, repeated_length]

/-- A padded string ends with its pad length. -/
theorem padBytes_getLast? (d : Bytes) : (padBytes d).getLast? = some (BitVec.ofNat 8 (padLength d.length)) := by
  have hpos : padLength d.length ≠ 0 := by
    obtain ⟨hpos, -⟩ := padLength_range d.length
    omega
  rw [padBytes, repeated, List.getLast?_append, List.getLast?_replicate, if_neg hpos, Option.some_or]

/-- Settles O16. -/
theorem padAppendsItsLength : Obligations.PadAppendsItsLength := by
  intro d
  obtain ⟨hpos, hle⟩ := padLength_range d.length
  have hlen : (padBytes d).length = 16 * (d.length / 16 + 1) := padBytes_length d
  exact ⟨padLength d.length, rfl, hpos, hle, rfl, by omega, by omega⟩

/-! ## `Unpad` -/

/-- A string shorter than its last byte says is refused (41_padding.md R172). -/
theorem unpadBytes_of_overlong {d : Bytes} {n : Byte} (hlast : d.getLast? = some n) (hn : d.length < n.toNat)
    (z : UnpadZero) : unpadBytes z d = .error .format := by
  simp [unpadBytes, hlast, hn]

/-- A string at least as long as its last byte says loses that many bytes; a last byte 0 follows `UNPAD_ZERO`
(41_padding.md R172). -/
theorem unpadBytes_of_le {d : Bytes} {n : Byte} (hlast : d.getLast? = some n) (hn : n.toNat ≤ d.length)
    (z : UnpadZero) :
    unpadBytes z d = .ok (if n = 0 ∧ z = .empty then [] else d.take (d.length - n.toNat)) := by
  have hfits : ¬ n.toNat > d.length := Nat.not_lt.2 hn
  simp only [unpadBytes, hlast, if_neg hfits]
  by_cases hzero : n = 0
  · cases z with
    | keep => simp [hzero]
    | empty => simp only [hzero, and_self, if_true]
  · rw [if_neg hzero, if_neg fun h => hzero h.1]

/-- Settles O17: the last byte of the padded string is its pad length, which is not 0, so that exactly the pad is cut. -/
theorem unpadInvertsPad : Obligations.UnpadInvertsPad := by
  intro z d
  obtain ⟨hpos, -⟩ := padLength_range d.length
  have hbyte : (BitVec.ofNat 8 (padLength d.length)).toNat = padLength d.length := padLength_toNat _
  have hlen : (padBytes d).length = d.length + padLength d.length := padBytes_length_add d
  have hne : BitVec.ofNat 8 (padLength d.length) ≠ 0 := fun h0 => by
    rw [h0] at hbyte
    exact Nat.ne_of_gt hpos hbyte.symm
  rw [unpadBytes_of_le (padBytes_getLast? d) (by omega), if_neg fun ⟨h0, _⟩ => hne h0, hbyte, hlen, Nat.add_sub_cancel,
    padBytes, List.take_left]

/-! ## The commands -/

/-- Settles O18: the padded source has exactly the `MAXOUT` bytes of the stages. -/
theorem padWritesThePaddedSource : Obligations.PadWritesThePaddedSource := by
  intro s hlegal hpass
  have hlen : (padBytes (sourceBytes s)).length = s.srcLen.toNat + (16 - s.srcLen.toNat % 16) := by
    rw [padBytes_length_add, sourceBytes_length, padLength]
  obtain ⟨hends, hsame⟩ := runCommand_ok (i := .pad) rfl hpass hlegal rfl (out := padBytes (sourceBytes s)) (by omega)
  have ⟨_, _, _, hout, _⟩ := hends
  exact ⟨_, rfl, hends, hsame, hout.trans hlen⟩

/-- `UNPAD` runs its stages and then gives whatever `Unpad` gives for the source (41_padding.md R173). -/
theorem exec_unpad_of_unpadBytes {s : State} {r : Except Failure Bytes}
    (h : unpadBytes s.params.unpadZero (sourceBytes s) = r) :
    exec .unpad s = .next (runCommand (unpadChecks s) r s) := by
  rw [← h]
  rfl

/-- Settles O19: `Unpad` never makes the source longer, so that its result fits `MAXOUT`. -/
theorem unpadRemovesThePadBytes : Obligations.UnpadRemovesThePadBytes := by
  intro s n hlegal hpass hlast hn
  have hbody := unpadBytes_of_le hlast (by rwa [sourceBytes_length]) s.params.unpadZero
  have hlen := unpadBytes_length hbody
  rw [sourceBytes_length] at hbody hlen
  obtain ⟨hends, hsame⟩ := runCommand_ok (i := .unpad) rfl hpass hlegal rfl hlen
  exact ⟨_, exec_unpad_of_unpadBytes hbody, hsame, hends⟩

/-- Settles O20. -/
theorem unpadRefusesAnOverlongPad : Obligations.UnpadRefusesAnOverlongPad := by
  intro s n hpass hlast hn
  have hbody := unpadBytes_of_overlong hlast (by rwa [sourceBytes_length]) s.params.unpadZero
  exact ⟨_, exec_unpad_of_unpadBytes hbody, runCommand_error (i := .unpad) rfl hpass⟩

end Sys2Proof.Machine
end

section
/-! The AES tables and the AES block cipher (42_cipher.md R190 to R201): the S-box as the affine map of the inverse, each
transformation of a round undone by its inverse, and the inverse cipher as the rounds undone in the reverse order. -/

namespace Sys2Proof.Machine

/-! ## The S-box -/

/-- The inverse of the affine map of 42_cipher.md R192: three rotations of `b` and the constant 0x05. -/
def sboxAffineInv (b : Byte) : Byte := b.rotateLeft 1 ^^^ b.rotateLeft 3 ^^^ b.rotateLeft 6 ^^^ 0x05

theorem sboxAffine_sboxAffineInv : ∀ b : Byte, sboxAffine (sboxAffineInv b) = b := by decide +kernel

/-- What the affine map takes to the S-box entry of a nonzero byte is the inverse of that byte in GF(2^8). -/
theorem gmul_sboxAffineInv_sbox : ∀ b : Byte, b ≠ 0 → gmul b (sboxAffineInv (sbox b)) = 1 := by decide +kernel

/-- The two tables are inverse permutations (42_cipher.md R193). -/
theorem invSbox_sbox : ∀ b : Byte, invSbox (sbox b) = b := by decide +kernel

theorem sbox_invSbox : ∀ b : Byte, sbox (invSbox b) = b := by decide +kernel

/-- Settles O21: the inverse of a byte is read off its S-box entry, by undoing the affine map. -/
theorem sboxIsTheAffineInverse : Obligations.SboxIsTheAffineInverse :=
  ⟨by decide, fun b hb => ⟨sboxAffineInv (sbox b), gmul_sboxAffineInv_sbox b hb, (sboxAffine_sboxAffineInv _).symm⟩,
    fun b => ⟨invSbox_sbox b, sbox_invSbox b⟩⟩

/-! ## The check values -/

/-- Settles O22, by running the cipher. -/
theorem aesCheckValues : Obligations.AesCheckValues := by
  unfold Obligations.AesCheckValues
  decide +kernel

/-! ## `MixColumns` -/

theorem gmulBits_xor (n : Nat) : ∀ a b c : Byte, gmulBits n a (b ^^^ c) = gmulBits n a b ^^^ gmulBits n a c := by
  induction n with
  | zero => simp [gmulBits]
  | succ n ih =>
    intro a b c
    have hbit : (if (b ^^^ c).getLsbD 0 then a else 0) =
        (if b.getLsbD 0 then a else 0) ^^^ (if c.getLsbD 0 then a else 0) := by
      rw [BitVec.getLsbD_xor]
      cases b.getLsbD 0 <;> cases c.getLsbD 0 <;> simp
    rw [gmulBits, gmulBits, gmulBits, hbit, BitVec.ushiftRight_xor_distrib, ih]
    ac_rfl

/-- A product in GF(2^8) is additive in its second factor. -/
theorem gmul_xor (a b c : Byte) : gmul a (b ^^^ c) = gmul a b ^^^ gmul a c := gmulBits_xor 8 a b c

/-! The product of the two matrices of 42_cipher.md R196 has 1 on its diagonal and 0 elsewhere. Both matrices are circulant,
so that its first row says it all: the coefficients of that row, each on every byte. -/

theorem invMix_mix_coeff0 : ∀ x : Byte,
    gmul 0x0E (gmul 0x02 x) ^^^ gmul 0x0B x ^^^ gmul 0x0D x ^^^ gmul 0x09 (gmul 0x03 x) = x := by decide +kernel

theorem invMix_mix_coeff1 : ∀ x : Byte,
    gmul 0x0E (gmul 0x03 x) ^^^ gmul 0x0B (gmul 0x02 x) ^^^ gmul 0x0D x ^^^ gmul 0x09 x = 0 := by decide +kernel

theorem invMix_mix_coeff2 : ∀ x : Byte,
    gmul 0x0E x ^^^ gmul 0x0B (gmul 0x03 x) ^^^ gmul 0x0D (gmul 0x02 x) ^^^ gmul 0x09 x = 0 := by decide +kernel

theorem invMix_mix_coeff3 : ∀ x : Byte,
    gmul 0x0E x ^^^ gmul 0x0B x ^^^ gmul 0x0D (gmul 0x03 x) ^^^ gmul 0x09 (gmul 0x02 x) = 0 := by decide +kernel

/-- Row 0 of a column comes back: additivity collects the coefficient of each byte of the column. -/
theorem invMixColumn_mixColumn_a0 (a : Column) : (invMixColumn (mixColumn a)).a0 = a.a0 := by
  obtain ⟨w, x, y, z⟩ := a
  calc (invMixColumn (mixColumn ⟨w, x, y, z⟩)).a0
      = (gmul 0x0E (gmul 0x02 w) ^^^ gmul 0x0B w ^^^ gmul 0x0D w ^^^ gmul 0x09 (gmul 0x03 w)) ^^^
        (gmul 0x0E (gmul 0x03 x) ^^^ gmul 0x0B (gmul 0x02 x) ^^^ gmul 0x0D x ^^^ gmul 0x09 x) ^^^
        (gmul 0x0E y ^^^ gmul 0x0B (gmul 0x03 y) ^^^ gmul 0x0D (gmul 0x02 y) ^^^ gmul 0x09 y) ^^^
        (gmul 0x0E z ^^^ gmul 0x0B z ^^^ gmul 0x0D (gmul 0x03 z) ^^^ gmul 0x09 (gmul 0x02 z)) := by
        simp only [invMixColumn, mixColumn, gmul_xor]
        ac_rfl
    _ = w := by
        rw [invMix_mix_coeff0, invMix_mix_coeff1, invMix_mix_coeff2, invMix_mix_coeff3]
        simp

/-- `MixColumns` is circulant: rotating a column rotates its image. -/
theorem mixColumn_rotWord (a : Column) : mixColumn (rotWord a) = rotWord (mixColumn a) := by
  simp only [mixColumn, rotWord, Column.mk.injEq]
  refine ⟨?_, ?_, ?_, ?_⟩ <;> ac_rfl

/-- `InvMixColumns` is circulant. -/
theorem invMixColumn_rotWord (a : Column) : invMixColumn (rotWord a) = rotWord (invMixColumn a) := by
  simp only [invMixColumn, rotWord, Column.mk.injEq]
  refine ⟨?_, ?_, ?_, ?_⟩ <;> ac_rfl

/-- A column is its four rows. -/
theorem column_ext {a b : Column} (h0 : a.a0 = b.a0) (h1 : a.a1 = b.a1) (h2 : a.a2 = b.a2) (h3 : a.a3 = b.a3) :
    a = b := by
  cases a
  cases b
  rw [Column.mk.injEq]
  exact ⟨h0, h1, h2, h3⟩

/-- `InvMixColumns` undoes `MixColumns` on a column: rotating the column moves each of its rows to row 0. -/
theorem invMixColumn_mixColumn (a : Column) : invMixColumn (mixColumn a) = a := by
  have hrot (b : Column) : invMixColumn (mixColumn (rotWord b)) = rotWord (invMixColumn (mixColumn b)) := by
    rw [mixColumn_rotWord, invMixColumn_rotWord]
  have h1 := invMixColumn_mixColumn_a0 (rotWord a)
  have h2 := invMixColumn_mixColumn_a0 (rotWord (rotWord a))
  have h3 := invMixColumn_mixColumn_a0 (rotWord (rotWord (rotWord a)))
  simp only [hrot] at h1 h2 h3
  exact column_ext (invMixColumn_mixColumn_a0 a) h1 h2 h3

/-! ## The other transformations of a round, and the round -/

@[simp] theorem invMixColumns_mixColumns (s : Block) : invMixColumns (mixColumns s) = s := by
  simp only [invMixColumns, mixColumns, Block.mapColumns, invMixColumn_mixColumn]

@[simp] theorem invSubBytes_subBytes (s : Block) : invSubBytes (subBytes s) = s := by
  simp only [invSubBytes, subBytes, Block.mapColumns, Column.map, invSbox_sbox]

@[simp] theorem invShiftRows_shiftRows (s : Block) : invShiftRows (shiftRows s) = s := rfl

theorem Column.xor_cancel_right (a b : Column) : (a.xor b).xor b = a := by
  simp only [Column.xor, BitVec.xor_assoc, BitVec.xor_self, BitVec.xor_zero]

@[simp] theorem addRoundKey_addRoundKey (w : List Column) (rnd : Nat) (s : Block) :
    addRoundKey w rnd (addRoundKey w rnd s) = s := by
  simp only [addRoundKey, Column.xor_cancel_right]

@[simp] theorem loadBlock_storeBlock (s : Block) : loadBlock (storeBlock s) = s := rfl

/-- A block goes through the AES state unchanged (42_cipher.md R190). -/
theorem storeBlock_loadBlock {b : Bytes} (h : b.length = 16) : storeBlock (loadBlock b) = b := by
  apply List.ext_getElem (by rw [h]; rfl)
  intro i hi _
  have hlt : i < 16 := hi
  interval_cases i <;> simp [storeBlock, loadBlock, columnBytes, columnAt, h]

/-- The rounds of a cipher undone one by one: when `g` at a round takes what `f` gives there, seen through `h`, back to what
`h` sees before it, running `g` over the rounds in the reverse order undoes all of `f`. -/
theorem foldl_reverse_undoes_foldl {σ τ ρ : Type} {f : σ → ρ → σ} {g : τ → ρ → τ} {h : σ → τ}
    (hstep : ∀ s r, g (h (f s r)) r = h s) (rs : List ρ) (s : σ) : rs.reverse.foldl g (h (rs.foldl f s)) = h s := by
  induction rs generalizing s with
  | nil => rfl
  | cons r rs ih => rw [List.foldl_cons, List.reverse_cons, List.foldl_append, ih, List.foldl_cons, List.foldl_nil, hstep]

/-- Settles O23: the two ciphers run the rounds in opposite orders, and between two rounds the inverse cipher holds the state
of the cipher after `SubBytes` and `ShiftRows`. -/
theorem aesDecInvertsAesEnc : Obligations.AesDecInvertsAesEnc := by
  intro K b hb
  have hrounds := foldl_reverse_undoes_foldl
    (f := fun s rnd => addRoundKey (keySchedule K) rnd (mixColumns (shiftRows (subBytes s))))
    (g := fun s rnd => invMixColumns (addRoundKey (keySchedule K) rnd (invSubBytes (invShiftRows s))))
    (h := fun s => shiftRows (subBytes s)) (fun s rnd => by simp)
    (List.range' 1 (keyRounds K - 1)) (addRoundKey (keySchedule K) 0 (loadBlock b))
  simp only [aesDec, aesEnc, loadBlock_storeBlock, addRoundKey_addRoundKey, hrounds, invShiftRows_shiftRows,
    invSubBytes_subBytes, storeBlock_loadBlock hb]

end Sys2Proof.Machine
end

section
/-! CBC mode and the raw cipher commands (42_cipher.md R202 to R208): both chains go block by block, and decryption cancels
the exclusive-or of encryption. -/

namespace Sys2Proof.Machine

/-! ## Block by block -/

/-- The first piece of a string that begins with a whole piece. -/
theorem chunks_succ_append {k : Nat} {b : Bytes} (hb : b.length = k) (m : Nat) (p : Bytes) :
    chunks k (m + 1) (b ++ p) = b :: chunks k m p := by
  subst hb
  rw [chunks, List.take_left, List.drop_left]

/-- The blocks of a string that begins with a block. -/
theorem blocks_append {b : Bytes} (hb : b.length = 16) (p : Bytes) :
    chunks Config.blk ((b ++ p).length / Config.blk) (b ++ p) =
      b :: chunks Config.blk (p.length / Config.blk) p := by
  have hcount : (b ++ p).length / Config.blk = p.length / Config.blk + 1 := by
    simp only [List.length_append, hb, blk_eq]
    omega
  rw [hcount, chunks_succ_append hb]

@[simp] theorem cbcEnc_nil (K iv : Bytes) : cbcEnc K iv [] = [] := rfl

@[simp] theorem cbcDec_nil (K iv : Bytes) : cbcDec K iv [] = [] := rfl

/-- The recurrence of `CBC_Enc` (42_cipher.md R202). -/
theorem cbcEnc_append (K iv : Bytes) {b : Bytes} (hb : b.length = 16) (p : Bytes) :
    cbcEnc K iv (b ++ p) = aesEnc K (xorBytes b iv) ++ cbcEnc K (aesEnc K (xorBytes b iv)) p := by
  rw [cbcEnc, blocks_append hb, cbcEncBlocks, cbcEnc]

/-- The recurrence of `CBC_Dec` (42_cipher.md R203). -/
theorem cbcDec_append (K iv : Bytes) {b : Bytes} (hb : b.length = 16) (p : Bytes) :
    cbcDec K iv (b ++ p) = xorBytes (aesDec K b) iv ++ cbcDec K b p := by
  rw [cbcDec, blocks_append hb, cbcDecBlocks, cbcDec]

/-! ## Decryption undoes encryption -/

theorem xorBytes_cancel_right {a b : Bytes} (h : a.length ≤ b.length) : xorBytes (xorBytes a b) b = a := by
  apply List.ext_getElem
  · simp only [xorBytes_length]
    omega
  · intro i _ _
    simp only [xorBytes, List.getElem_zipWith, BitVec.xor_assoc, BitVec.xor_self, BitVec.xor_zero]

/-- Settles O24, by induction on the number of blocks: the first block is decrypted with `AES_Dec`, and its ciphertext is the
IV of the others on both sides. -/
theorem cbcDecInvertsCbcEnc : Obligations.CbcDecInvertsCbcEnc := by
  intro K iv p hiv hp
  obtain ⟨m, hm⟩ := Nat.dvd_of_mod_eq_zero hp
  clear hp
  induction m generalizing iv p with
  | zero =>
    obtain rfl := List.eq_nil_of_length_eq_zero hm
    rw [cbcEnc_nil, cbcDec_nil]
  | succ m ih =>
    obtain ⟨b, q, rfl, hb, hq⟩ : ∃ b q : Bytes, p = b ++ q ∧ b.length = 16 ∧ q.length = 16 * m :=
      ⟨p.take 16, p.drop 16, (List.take_append_drop 16 p).symm, by simp; omega, by simp; omega⟩
    have hx : (xorBytes b iv).length = 16 := by simp [hb, hiv]
    rw [cbcEnc_append K iv hb, cbcDec_append K iv (aesEnc_length _ _), aesDecInvertsAesEnc K _ hx,
      xorBytes_cancel_right (by omega), ih _ q (aesEnc_length _ _) hq]

/-! ## The commands -/

/-- The source of a cipher command that passes its stages is whole blocks (40_control.md R152 stage S5). -/
theorem whole_blocks_of_passesStages {i : Instr} {s : State} (hi : i = .aesCbcEnc ∨ i = .aesCbcDec)
    (hpass : PassesStages i s) : s.srcLen.toNat % 16 = 0 := by
  obtain ⟨-, -, -, hlength, -⟩ := hpass
  rcases hi with rfl | rfl <;> exact not_not.1 hlength

/-- A cipher command that passes its stages ends with `E_OK` and an output as long as its source. -/
theorem runCommand_cipher_ok {i : Instr} {s : State} {out : Bytes} (hi : i = .aesCbcEnc ∨ i = .aesCbcDec)
    (hlegal : s.params.Legal) (hpass : PassesStages i s) (hlen : out.length = s.srcLen.toNat) :
    EndsOk s (runCommand (cipherChecks s) (.ok out) s) out ∧ Unchanged s (runCommand (cipherChecks s) (.ok out) s) ∧
      (runCommand (cipherChecks s) (.ok out) s).outLen = s.srcLen := by
  have hchecks : checksOf i s = some (cipherChecks s) := by rcases hi with rfl | rfl <;> rfl
  have hmax : maxOut i s.srcLen.toNat = some s.srcLen.toNat := by rcases hi with rfl | rfl <;> rfl
  obtain ⟨hends, hsame⟩ := runCommand_ok hchecks hpass hlegal hmax (le_of_eq hlen)
  have ⟨_, _, _, hout, _⟩ := hends
  exact ⟨hends, hsame, BitVec.eq_of_toNat_eq (hout.trans hlen)⟩

/-- Settles O25. -/
theorem aesCbcEncWritesTheCiphertext : Obligations.AesCbcEncWritesTheCiphertext := by
  refine ⟨fun s hlegal hpass => ⟨_, rfl, ?_⟩, cbcEnc_nil,
    fun K iv b p _ hb => ⟨_, rfl, aesEnc_length _ _, cbcEnc_append K iv hb p⟩⟩
  have hblocks := whole_blocks_of_passesStages (.inl rfl) hpass
  refine runCommand_cipher_ok (.inl rfl) hlegal hpass ?_
  rw [cbcEnc_length, sourceBytes_length]
  omega

/-- Settles O26. -/
theorem aesCbcDecWritesThePlaintext : Obligations.AesCbcDecWritesThePlaintext := by
  refine ⟨fun s hlegal hpass => ⟨_, rfl, ?_⟩, cbcDec_nil, fun K iv b p _ hb => cbcDec_append K iv hb p⟩
  have hblocks := whole_blocks_of_passesStages (.inr rfl) hpass
  refine runCommand_cipher_ok (.inr rfl) hlegal hpass ?_
  rw [cbcDec_length (ivBytes_length s) (by rwa [sourceBytes_length]), sourceBytes_length]

end Sys2Proof.Machine
end

section
/-! SHA-1, HMAC-SHA1 and the MAC commands (43_mac.md R230 to R239): the accumulated difference is 0 exactly when the two tags
agree in every byte, which decides between the two ways `HMAC_VERIFY` ends. -/

namespace Sys2Proof.Machine

/-! ## The check values -/

/-- Settles O27, by running the hash. -/
theorem shaCheckValues : Obligations.ShaCheckValues := by
  unfold Obligations.ShaCheckValues
  decide +kernel

/-- Settles O28, by running the hash. -/
theorem hmacCheckValues : Obligations.HmacCheckValues := by
  unfold Obligations.HmacCheckValues
  decide +kernel

/-! ## The comparison -/

/-- An accumulated disjunction is 0 exactly when it starts at 0 and every term is 0. -/
theorem foldl_or_eq_zero_iff {ι : Type} {w : Nat} (f : ι → BitVec w) (l : List ι) (acc : BitVec w) :
    l.foldl (fun d i => d ||| f i) acc = 0 ↔ acc = 0 ∧ ∀ i ∈ l, f i = 0 := by
  induction l generalizing acc with
  | nil => simp
  | cons i l ih =>
    rw [List.foldl_cons, ih, List.forall_mem_cons, ← and_assoc]
    exact and_congr_left' BitVec.or_eq_zero_iff

/-- `diff` is 0 exactly when no byte pair differs (43_mac.md R237). -/
theorem tagDifference_eq_zero_iff (a b : Bytes) :
    tagDifference a b = 0 ↔ ∀ i < 20, a.getD i 0 = b.getD i 0 := by
  simp only [tagDifference, foldl_or_eq_zero_iff, List.mem_range, tagLen_eq, true_and]
  exact forall₂_congr fun _ _ => BitVec.xor_eq_zero_iff

/-- `CTEq` is equality on tags (43_mac.md R237). -/
theorem ctEq_iff {a b : Bytes} (ha : a.length = 20) (hb : b.length = 20) : ctEq a b = true ↔ a = b := by
  rw [ctEq, beq_iff_eq, tagDifference_eq_zero_iff]
  constructor
  · intro hbytes
    refine List.ext_getElem (ha.trans hb.symm) fun i hia hib => ?_
    rw [← List.getD_eq_getElem a 0 hia, ← List.getD_eq_getElem b 0 hib]
    exact hbytes i (ha ▸ hia)
  · rintro rfl i _
    rfl

/-- Settles O29. -/
theorem constantTimeCompareIsEquality : Obligations.ConstantTimeCompareIsEquality :=
  fun _ _ => ctEq_iff

/-! ## The commands -/

/-- Settles O30: the HMAC has exactly the 20 bytes of `MAXOUT`. -/
theorem hmacGenWritesTheTag : Obligations.HmacGenWritesTheTag := by
  intro s hlegal hpass
  have hlen := hmacSha1_length (hmacKeyBytes s) (sourceBytes s)
  obtain ⟨hends, hsame⟩ := runCommand_ok (i := .hmacGen) rfl hpass hlegal rfl (le_of_eq hlen)
  have ⟨_, _, _, hout, _⟩ := hends
  exact ⟨_, rfl, hends, hsame, BitVec.eq_of_toNat_eq (hout.trans hlen)⟩

/-- A command that passes its stages ends with the result of its body (40_control.md R152). -/
theorem runCommand_of_passesStages {i : Instr} {s : State} {c : Checks} (h : checksOf i s = some c)
    (hpass : PassesStages i s) (r : Except Failure Bytes) : runCommand c r s = complete r s := by
  simp [runCommand, (passesStages_iff h).1 hpass]

/-- The body of `HMAC_VERIFY` on the right tag. -/
theorem verifyBody_of_eq {s : State} (h : tagBytes s = hmacSha1 (hmacKeyBytes s) (sourceBytes s)) :
    verifyBody s = .ok [] :=
  if_pos ((ctEq_iff (tagBytes_length s) (hmacSha1_length _ _)).2 h)

/-- The body of `HMAC_VERIFY` on any other tag. -/
theorem verifyBody_of_ne {s : State} (h : tagBytes s ≠ hmacSha1 (hmacKeyBytes s) (sourceBytes s)) :
    verifyBody s = .error .auth :=
  if_neg fun heq => h ((ctEq_iff (tagBytes_length s) (hmacSha1_length _ _)).1 heq)

/-- `HMAC_VERIFY` past its stages completes with the result of its body (43_mac.md R239). -/
theorem exec_hmacVerify_of_passesStages {s : State} (hpass : PassesStages .hmacVerify s) :
    exec .hmacVerify s = .next (complete (verifyBody s) s) :=
  congrArg Host.Outcome.next (runCommand_of_passesStages rfl hpass (verifyBody s))

/-- Settles O31: the comparison decides between the completion without output and the one with `E_AUTH`. -/
theorem hmacVerifyComparesTheTag : Obligations.HmacVerifyComparesTheTag := by
  intro s hpass
  rw [exec_hmacVerify_of_passesStages hpass]
  refine ⟨fun htag => ?_, fun htag => ?_⟩
  · rw [verifyBody_of_eq htag]
    exact ⟨_, rfl, complete_empty_spec s⟩
  · rw [verifyBody_of_ne htag]
    exact ⟨_, rfl, complete_error_spec s .auth⟩

end Sys2Proof.Machine
end

section
/-! The hex codec (44_envelope.md R261 to R264): what a digit stands for, what two characters stand for, and then, pair by
pair, what a text of digits decodes to. -/

namespace Sys2Proof.Machine

/-! ## The digits -/

/-- The digit of a nibble as a number (44_envelope.md R261). -/
theorem hexDigit_toNat (v : Byte) : (v.toNat ≤ 9 → (hexDigit v).toNat = 0x30 + v.toNat) ∧
    (10 ≤ v.toNat → v.toNat ≤ 15 → (hexDigit v).toNat = 0x41 + (v.toNat - 10)) := by
  unfold hexDigit
  split
  · exact ⟨fun _ => by bv_omega, by bv_omega⟩
  · exact ⟨by bv_omega, fun _ _ => by bv_omega⟩

/-- Every byte is a digit of one of the three ranges, with its value, or lies outside them and has none
(44_envelope.md R262). -/
theorem hexVal_cases (c : Byte) :
    (0x30 ≤ c.toNat ∧ c.toNat ≤ 0x39 ∧ ∃ v, hexVal c = some v ∧ v.toNat = c.toNat - 0x30) ∨
    (0x41 ≤ c.toNat ∧ c.toNat ≤ 0x46 ∧ ∃ v, hexVal c = some v ∧ v.toNat = c.toNat - 0x41 + 10) ∨
    (0x61 ≤ c.toNat ∧ c.toNat ≤ 0x66 ∧ ∃ v, hexVal c = some v ∧ v.toNat = c.toNat - 0x61 + 10) ∨
    ((c.toNat < 0x30 ∨ (0x39 < c.toNat ∧ c.toNat < 0x41) ∨ (0x46 < c.toNat ∧ c.toNat < 0x61) ∨ 0x66 < c.toNat) ∧
      hexVal c = none) := by
  unfold hexVal
  split
  · exact .inl ⟨by bv_omega, by bv_omega, _, rfl, by bv_omega⟩
  split
  · exact .inr (.inl ⟨by bv_omega, by bv_omega, _, rfl, by bv_omega⟩)
  split
  · exact .inr (.inr (.inl ⟨by bv_omega, by bv_omega, _, rfl, by bv_omega⟩))
  · exact .inr (.inr (.inr ⟨by bv_omega, rfl⟩))

/-- Settles O59: the ranges exclude each other, so that a byte's range decides its case. -/
theorem hexDigitsAreTheAsciiCodes : Obligations.HexDigitsAreTheAsciiCodes := by
  refine ⟨hexDigit_toNat, fun c => ?_⟩
  rcases hexVal_cases c with ⟨hlow, hhigh, hv⟩ | ⟨hlow, hhigh, hv⟩ | ⟨hlow, hhigh, hv⟩ | ⟨hout, hv⟩
  · exact ⟨fun _ => hv, by omega, by omega, by omega⟩
  · exact ⟨by omega, fun _ => hv, by omega, by omega⟩
  · exact ⟨by omega, by omega, fun _ => hv, by omega⟩
  · exact ⟨by omega, by omega, by omega, fun _ => hv⟩

/-- A digit stands for a nibble. -/
theorem hexVal_le {c v : Byte} (h : hexVal c = some v) : v.toNat ≤ 15 := by
  rcases hexVal_cases c with ⟨_, _, w, hw, _⟩ | ⟨_, _, w, hw, _⟩ | ⟨_, _, w, hw, _⟩ | ⟨_, hnone⟩
  case inr.inr.inr =>
    rw [hnone] at h
    cases h
  all_goals
    cases hw.symm.trans h
    omega

/-- The digit of a nibble stands for it. -/
theorem hexVal_hexDigit {v : Byte} (hv : v.toNat ≤ 15) : hexVal (hexDigit v) = some v := by
  obtain ⟨hdecimal, hletter⟩ := hexDigit_toNat v
  rcases hexVal_cases (hexDigit v) with ⟨_, _, w, hw, _⟩ | ⟨_, _, w, hw, _⟩ | ⟨_, _, w, hw, _⟩ | ⟨_, _⟩
  case inr.inr.inr => omega
  all_goals
    rw [hw, Option.some_inj]
    exact BitVec.eq_of_toNat_eq (by omega)

/-! ## The nibbles of a byte -/

/-- The high nibble as a number. -/
theorem highNibble_toNat (b : Byte) : (b >>> 4).toNat = b.toNat / 16 := by
  rw [BitVec.toNat_ushiftRight, Nat.shiftRight_eq_div_pow]

/-- The low nibble as a number. -/
theorem lowNibble_toNat (b : Byte) : (b &&& 0x0F).toNat = b.toNat % 16 :=
  (BitVec.toNat_and b 0x0F).trans (Nat.and_two_pow_sub_one_eq_mod b.toNat 4)

/-- Two digits make a byte without overflow. -/
theorem nibblePair_toNat {h l : Byte} (hh : h.toNat ≤ 15) (hl : l.toNat ≤ 15) :
    (16 * h + l).toNat = 16 * h.toNat + l.toNat := by
  bv_omega

/-- A byte is made of its nibbles. -/
theorem nibblePair_of_byte (b : Byte) : (16 : Byte) * (b >>> 4) + (b &&& 0x0F) = b := by
  have hhigh := highNibble_toNat b
  have hlow := lowNibble_toNat b
  refine BitVec.eq_of_toNat_eq ?_
  rw [nibblePair_toNat (by omega) (by omega)]
  omega

/-! ## The text of a byte string -/

/-- The text of a byte string begins with the two digits of its first byte (44_envelope.md R261). -/
theorem hexEncode_cons (b : Byte) (d : Bytes) :
    hexEncode (b :: d) = hexDigit (b >>> 4) :: hexDigit (b &&& 0x0F) :: hexEncode d := rfl

/-- Characters `2k` and `2k + 1` are the digits of byte `k`, the high nibble first (44_envelope.md R261). -/
theorem hexEncode_getElem? (d : Bytes) (k : Nat) :
    (hexEncode d)[2 * k]? = d[k]?.map (fun b : Byte => hexDigit (b >>> 4)) ∧
    (hexEncode d)[2 * k + 1]? = d[k]?.map (fun b : Byte => hexDigit (b &&& 0x0F)) := by
  induction d generalizing k with
  | nil => exact ⟨rfl, rfl⟩
  | cons b d ih =>
    rw [hexEncode_cons]
    cases k with
    | zero => exact ⟨rfl, rfl⟩
    | succ k => exact ih k

/-! ## What a text decodes to -/

/-- A text of at least two characters decodes when both are digits and the rest decodes (44_envelope.md R262). -/
theorem hexDecode_cons_cons_iff {hi lo : Byte} {t d : Bytes} : hexDecode (hi :: lo :: t) = .ok d ↔
    ∃ h l e, hexVal hi = some h ∧ hexVal lo = some l ∧ hexDecode t = .ok e ∧ (16 * h + l) :: e = d := by
  rw [hexDecode]
  split
  · next h l e hh hl he => simp [hh, hl, he]
  · next hbad =>
    simp only [reduceCtorEq, false_iff]
    rintro ⟨h, l, e, hh, hl, he, _⟩
    exact hbad h l e hh hl he

/-- The text of a byte string decodes to it. -/
theorem hexDecode_hexEncode (d : Bytes) : hexDecode (hexEncode d) = .ok d := by
  induction d with
  | nil => rfl
  | cons b d ih =>
    have hhigh := highNibble_toNat b
    have hlow := lowNibble_toNat b
    rw [hexEncode_cons]
    exact hexDecode_cons_cons_iff.2 ⟨_, _, d, hexVal_hexDigit (by omega), hexVal_hexDigit (by omega), ih,
      by rw [nibblePair_of_byte]⟩

/-- Settles O32: each byte's two digits stand for its nibbles, which make it again. -/
theorem hexDecodeInvertsHexEncode : Obligations.HexDecodeInvertsHexEncode :=
  fun d => ⟨hexDecode_hexEncode d, hexEncode_length d⟩

/-- An even number of digits decodes. -/
theorem hexDecode_of_digits : ∀ {t : Bytes}, t.length % 2 = 0 → (∀ c ∈ t, hexVal c ≠ none) → ∃ d, hexDecode t = .ok d
  | [], _, _ => ⟨[], rfl⟩
  | [_], heven, _ => absurd heven (by simp)
  | hi :: lo :: t, heven, hdigits => by
    simp only [List.forall_mem_cons] at hdigits
    obtain ⟨hhi, hlo, hrest⟩ := hdigits
    obtain ⟨h, hh⟩ := Option.ne_none_iff_exists'.1 hhi
    obtain ⟨l, hl⟩ := Option.ne_none_iff_exists'.1 hlo
    rw [List.length_cons, List.length_cons, Nat.add_assoc, Nat.add_mod_right] at heven
    obtain ⟨e, he⟩ := hexDecode_of_digits heven hrest
    exact ⟨_, hexDecode_cons_cons_iff.2 ⟨h, l, e, hh, hl, he, rfl⟩⟩

/-- A text that decodes holds digits only. -/
theorem digits_of_hexDecode : ∀ {t d : Bytes}, hexDecode t = .ok d → ∀ c ∈ t, hexVal c ≠ none
  | [], _, _ => by simp
  | [_], _, hd => by simp [hexDecode] at hd
  | hi :: lo :: t, _, hd => by
    obtain ⟨h, l, e, hh, hl, he, _⟩ := hexDecode_cons_cons_iff.1 hd
    simp only [List.forall_mem_cons]
    exact ⟨by simp [hh], by simp [hl], digits_of_hexDecode he⟩

/-- Byte `k` of a decoded text comes from its characters `2k` and `2k + 1` (44_envelope.md R262). -/
theorem hexDecode_getElem : ∀ {t d : Bytes}, hexDecode t = .ok d → ∀ k (hk : k < d.length),
    ∃ h l, t[2 * k]?.bind hexVal = some h ∧ t[2 * k + 1]?.bind hexVal = some l ∧ d[k].toNat = 16 * h.toNat + l.toNat
  | [], _, hd, k, hk => by
    cases hd
    cases hk
  | [_], _, hd, _, _ => by simp [hexDecode] at hd
  | hi :: lo :: t, _, hd, k, hk => by
    obtain ⟨h, l, e, hh, hl, he, rfl⟩ := hexDecode_cons_cons_iff.1 hd
    cases k with
    | zero => exact ⟨h, l, hh, hl, nibblePair_toNat (hexVal_le hh) (hexVal_le hl)⟩
    | succ k => exact hexDecode_getElem he k (Nat.lt_of_succ_lt_succ hk)

/-- A bad character makes the whole text raise `E_FORMAT`. -/
theorem hexDecode_of_badCharacter {t : Bytes} (h : ∃ c ∈ t, hexVal c = none) : hexDecode t = .error .format := by
  obtain ⟨c, hc, hbad⟩ := h
  cases hd : hexDecode t with
  | ok d => exact absurd hbad (digits_of_hexDecode hd c hc)
  | error e => rw [hexDecode_error hd]

/-! ## The commands -/

/-- Byte `k` of the source region, if there is one. -/
theorem sourceBytes_getElem? (s : State) {k : Nat} (hk : k < s.srcLen.toNat) :
    (sourceBytes s)[k]? = some (s.byteAt (s.srcAddr.toNat + k)) :=
  memRead_getElem? s _ hk

/-- A region that holds a byte string, read through `getElem?`. -/
theorem byteAt_of_holdsAt {t : State} {a k : Nat} {out : Bytes} {v : Byte} (h : HoldsAt t a out)
    (hv : out[k]? = some v) : t.byteAt (a + k) = v := by
  obtain ⟨hk, hv⟩ := List.getElem?_eq_some_iff.1 hv
  exact (h k hk).trans hv

/-- Settles O33: the output is the text of the source, of exactly the `MAXOUT` bytes of the stages. -/
theorem hexEncWritesTheDigits : Obligations.HexEncWritesTheDigits := by
  intro s hlegal hpass
  have hlen : (hexEncode (sourceBytes s)).length = 2 * s.srcLen.toNat := by rw [hexEncode_length, sourceBytes_length]
  obtain ⟨hends, hsame⟩ := runCommand_ok (i := .hexEnc) rfl hpass hlegal rfl (le_of_eq hlen)
  have ⟨_, _, _, hout, hholds, _⟩ := hends
  refine ⟨_, rfl, hends, hsame, hout.trans hlen, fun k hk => ?_⟩
  obtain ⟨hhigh, hlow⟩ := hexEncode_getElem? (sourceBytes s) k
  rw [sourceBytes_getElem? s hk] at hhigh hlow
  exact ⟨byteAt_of_holdsAt hholds hhigh, byteAt_of_holdsAt (k := 2 * k + 1) hholds hlow⟩

/-- `HEX_DEC` runs its stages and then gives whatever `HexDec` gives for the source (44_envelope.md R264). -/
theorem exec_hexDec_of_hexDecode {s : State} {r : Except Failure Bytes} (h : hexDecode (sourceBytes s) = r) :
    exec .hexDec s = .next (runCommand (hexDecChecks s) r s) := by
  rw [← h]
  rfl

/-- Settles O34: stage S5 has left an even number of characters, so that a source of digits decodes. -/
theorem hexDecWritesTheBytes : Obligations.HexDecWritesTheBytes := by
  intro s hlegal hpass hdigits
  have ⟨_, _, _, hlength, _⟩ := hpass
  have heven : (sourceBytes s).length % 2 = 0 := by
    rw [sourceBytes_length]
    exact not_not.1 hlength
  obtain ⟨d, hd⟩ := hexDecode_of_digits heven hdigits
  have hlen : d.length = s.srcLen.toNat / 2 := by rw [hexDecode_length hd, sourceBytes_length]
  obtain ⟨hends, hsame⟩ := runCommand_ok (i := .hexDec) rfl hpass hlegal rfl (le_of_eq hlen)
  refine ⟨_, d, exec_hexDec_of_hexDecode hd, hends, hsame, hlen, fun k hk => ?_⟩
  obtain ⟨h, l, hh, hl, hbyte⟩ := hexDecode_getElem hd k hk
  rw [sourceBytes_getElem? s (by omega)] at hh hl
  exact ⟨h, l, hh, hl, hbyte⟩

/-- Settles O35: a text that decodes would hold digits only, and `HexDec` raises nothing but `E_FORMAT`. -/
theorem hexDecRefusesABadCharacter : Obligations.HexDecRefusesABadCharacter :=
  fun _ hpass hbad =>
    ⟨_, exec_hexDec_of_hexDecode (hexDecode_of_badCharacter hbad), runCommand_error (i := .hexDec) rfl hpass⟩

end Sys2Proof.Machine
end

section
/-! The layout of a sealed envelope and the four forms of `SEAL` (44_envelope.md R260, R265, R267). -/

namespace Sys2Proof.Machine

/-! ## The layout -/

/-- The signed part of an envelope has 21 bytes and the ciphertext of the padded plaintext. -/
theorem sealMessage_length {K iv p : Bytes} (hiv : iv.length = 16) :
    (sealMessage K iv p).length = 21 + 16 * (p.length / 16 + 1) := by
  simp only [sealMessage, List.length_append, repeated_length, hdrLen_eq, hiv, cbcEnc_length, padBytes_length]
  omega

/-- The signature is all that follows the signed part (44_envelope.md R260). -/
theorem sealEnvelope_message_signature {K H iv p : Bytes} {n : Nat} (hn : (sealMessage K iv p).length = n) :
    (sealEnvelope K H iv p).take n = sealMessage K iv p ∧
    (sealEnvelope K H iv p).drop n = hmacSha1 H (sealMessage K iv p) := by
  subst hn
  exact ⟨List.take_left, List.drop_left⟩

/-- After the header come the IV and the ciphertext, and then the signature (44_envelope.md R260). -/
theorem sealEnvelope_fields {K H iv p : Bytes} (hiv : iv.length = 16) :
    (sealEnvelope K H iv p).take 5 = repeated 5 0x00 ∧
    ((sealEnvelope K H iv p).drop 5).take 16 = iv ∧
    ((sealEnvelope K H iv p).drop 21).take (16 * (p.length / 16 + 1)) = cbcEnc K iv (padBytes p) := by
  have hct : (cbcEnc K iv (padBytes p)).length = 16 * (p.length / 16 + 1) := by
    rw [cbcEnc_length, padBytes_length]
    omega
  have henv : sealEnvelope K H iv p =
      repeated 5 0x00 ++ (iv ++ (cbcEnc K iv (padBytes p) ++ hmacSha1 H (sealMessage K iv p))) := by
    simp only [sealEnvelope, sealMessage, hdrLen_eq, List.append_assoc]
  have hdrop : (sealEnvelope K H iv p).drop 5 = iv ++ (cbcEnc K iv (padBytes p) ++ hmacSha1 H (sealMessage K iv p)) := by
    rw [henv]
    exact List.drop_left' (repeated_length 5 0x00)
  refine ⟨?_, ?_, ?_⟩
  · rw [henv]
    exact List.take_left' (repeated_length 5 0x00)
  · rw [hdrop]
    exact List.take_left' hiv
  · rw [show 21 = 5 + 16 from rfl, ← List.drop_drop, hdrop, List.drop_left' hiv, List.take_left' hct]

/-- The wire form has 1 or 2 bytes for each byte of the envelope. -/
theorem wireForm_length (hex : Bool) (env : Bytes) : (wireForm hex env).length = wireFactor hex * env.length := by
  cases hex with
  | false => exact (Nat.one_mul _).symm
  | true => exact hexEncode_length env

/-- Settles O36: the fields in their order, and the signature, which is the HMAC of the part before it. -/
theorem sealedEnvelopeLayout : Obligations.SealedEnvelopeLayout := by
  intro K H iv p hiv
  obtain ⟨hheader, hivfield, hct⟩ := sealEnvelope_fields (K := K) (H := H) (p := p) hiv
  obtain ⟨hmessage, hsignature⟩ := sealEnvelope_message_signature (H := H) (sealMessage_length (K := K) (p := p) hiv)
  refine ⟨sealEnvelope_length hiv, ?_, hheader, hivfield, hct, ?_⟩
  · rw [wireForm_length, sealEnvelope_length hiv, wireFactor, if_pos rfl]
  · rw [hsignature, hmessage]

/-! ## `SEAL` -/

/-- An output that fits the data memory is the output of a completion with `E_OK` (40_control.md R151). -/
theorem complete_ok_of_fits {s : State} {out : Bytes} (hlegal : s.params.Legal) (hfits : OutFits s (.ok out)) :
    EndsOk s (complete (.ok out) s) out ∧ Unchanged s (complete (.ok out) s) := by
  obtain ⟨_, _, hmax⟩ := hlegal
  refine complete_ok_spec s ?_
  rcases hfits with rfl | hfits
  · exact Nat.two_pow_pos 32
  · omega

/-- The envelope that `SEAL` gives in its wire form for the IV `iv` (44_envelope.md R265). -/
def sealedWire (hex : Bool) (s : State) (iv : Bytes) : Bytes :=
  wireForm hex (sealEnvelope (aesKeyBytes s) (hmacKeyBytes s) iv (sourceBytes s))

/-- The body of `SEAL` never raises. -/
theorem sealBody_eq (hex : Bool) (s : State) (iv : Bytes) : sealBody hex s iv = .ok (sealedWire hex s iv) := rfl

/-- `SEAL.INJ` and `SEAL.HEX.INJ` are one meaning with the flag `HEX` (44_envelope.md R265). -/
theorem exec_sealForm_injected (hex : Bool) (s : State) : exec (sealForm hex true) s = .next (sealInjected hex s) := by
  cases hex <;> rfl

/-- `SEAL` and `SEAL.HEX` are one meaning with the flag `HEX` (44_envelope.md R265). -/
theorem exec_sealForm_drawn (hex : Bool) (s : State) : exec (sealForm hex false) s = .next (sealDrawn hex s) := by
  cases hex <;> rfl

/-- The checks of the four forms of `SEAL` (40_control.md R152). -/
theorem checksOf_sealForm (hex ivsrc : Bool) (s : State) :
    checksOf (sealForm hex ivsrc) s = some (sealChecks hex ivsrc s) := by
  cases hex <;> cases ivsrc <;> rfl

/-- `SEAL` with an injected IV past its stages (44_envelope.md R265). -/
theorem exec_seal_injected {hex : Bool} {s : State} (hlegal : s.params.Legal) (hpass : PassesStages (sealForm hex true) s) :
    ∃ t, exec (sealForm hex true) s = .next t ∧ Unchanged s t ∧ EndsOk s t (sealedWire hex s (ivBytes s)) := by
  have hfits : OutFits s (sealBody hex s (ivBytes s)) := sealBody_fits hpass (ivBytes_length s) rfl rfl rfl
  obtain ⟨hends, hsame⟩ := complete_ok_of_fits hlegal hfits
  refine ⟨_, exec_sealForm_injected hex s, ?_⟩
  rw [sealInjected, runCommand_of_passesStages (checksOf_sealForm hex true s) hpass, sealBody_eq]
  exact ⟨hsame, hends⟩

/-- Settles O37: both wire forms are one lemma, in which `RNGFAIL` does not occur. -/
theorem injectedSealWritesTheEnvelope : Obligations.InjectedSealWritesTheEnvelope :=
  ⟨fun _ => exec_seal_injected (hex := false), fun _ => exec_seal_injected (hex := true)⟩

/-- All that a draw leaves as it was: everything but the answers to come and the count of the draws. -/
def UnchangedButDraw (s t : State) : Prop :=
  SameKeyRegisters s t ∧ SameOperands s t ∧ SameOutside s t ∧ t.keyValid = s.keyValid ∧ t.rngFail = s.rngFail

/-- A command without a draw leaves all of it. -/
theorem Unchanged.butDraw {s t : State} (h : Unchanged s t) : UnchangedButDraw s t := by
  obtain ⟨hkeys, hoperands, houtside, ⟨_, _, hlatch⟩, hvalid⟩ := h
  exact ⟨hkeys, hoperands, houtside, hvalid, hlatch⟩

/-- The completion with `E_OK` after a draw: the draw touches nothing that the completion reads. -/
theorem complete_ok_after_draw {s : State} {out : Bytes} (hlegal : s.params.Legal) (hfits : OutFits s (.ok out)) :
    UnchangedButDraw s (complete (.ok out) (entropyDraw s).2) ∧
      EndsOk s (complete (.ok out) (entropyDraw s).2) out := by
  rcases entropyDraw_cases s with ⟨_, rs, _, he⟩ | ⟨_, he⟩ <;> rw [he]
  · obtain ⟨hends, hsame⟩ := complete_ok_of_fits (s := { s with entropy := rs }) hlegal hfits
    exact ⟨hsame.butDraw, hends⟩
  · obtain ⟨hends, hsame⟩ := complete_ok_of_fits (s := { s with draws := s.draws + 1 }) hlegal hfits
    exact ⟨hsame.butDraw, hends⟩

/-- `SEAL` past its stages with the latch clear and a draw that answers `b` (44_envelope.md R265, 60_exceptions.md
R306). -/
theorem exec_seal_of_draw {hex : Bool} {s : State} {b : Vector Byte 16} (hlegal : s.params.Legal)
    (hpass : PassesStages (sealForm hex false) s) (hlatch : s.rngFail = false) (hdraw : (entropyDraw s).1 = some b) :
    ∃ t, exec (sealForm hex false) s = .next t ∧ t.entropy = (entropyDraw s).2.entropy ∧
      t.draws = (entropyDraw s).2.draws ∧ UnchangedButDraw s t ∧ EndsOk s t (sealedWire hex s b.toList) := by
  have hstages := (passesStages_iff (checksOf_sealForm hex false s)).1 hpass
  have hfits : OutFits s (sealBody hex s b.toList) := sealBody_fits hpass (Vector.length_toList ..) rfl rfl rfl
  have hdrawn : sealDrawn hex s = complete (.ok (sealedWire hex s b.toList)) (entropyDraw s).2 := by
    simp [sealDrawn, runDrawingCommand, hstages, hlatch, hdraw, finishDraw, sealBody_eq]
  rw [exec_sealForm_drawn, hdrawn]
  exact ⟨_, rfl, rfl, rfl, complete_ok_after_draw hlegal hfits⟩

/-- `SEAL` past its stages with the latch clear and the listed answer `b` (60_exceptions.md R306). -/
theorem exec_seal_listed {hex : Bool} {s : State} {b : Vector Byte 16} {rest : List (Option (Vector Byte 16))}
    (hlegal : s.params.Legal) (hlatch : s.rngFail = false) (hlist : s.entropy = some b :: rest)
    (hpass : PassesStages (sealForm hex false) s) :
    ∃ t, exec (sealForm hex false) s = .next t ∧ t.entropy = rest ∧ t.draws = s.draws ∧ t.rngFail = false ∧
      t.keyValid = s.keyValid ∧ SameKeyRegisters s t ∧ SameOperands s t ∧ SameOutside s t ∧
      EndsOk s t (sealedWire hex s b.toList) := by
  have hdraw : entropyDraw s = (some b, { s with entropy := rest }) := by rw [entropyDraw, hlist]
  obtain ⟨t, ht, hentropy, hdraws, ⟨hkeys, hoperands, houtside, hvalid, hflag⟩, hends⟩ :=
    exec_seal_of_draw hlegal hpass hlatch (congrArg Prod.fst hdraw)
  rw [hdraw] at hentropy hdraws
  exact ⟨t, ht, hentropy, hdraws, hflag.trans hlatch, hvalid, hkeys, hoperands, houtside, hends⟩

/-- Settles O38. The listed answers are taken first: the model's choice, log entry 4. -/
theorem drawnSealWritesTheEnvelope : Obligations.DrawnSealWritesTheEnvelope :=
  ⟨fun _ _ _ => exec_seal_listed (hex := false), fun _ _ _ => exec_seal_listed (hex := true)⟩

/-- A `SEAL` that ended with `E_OK` has written the envelope of its source under some IV (44_envelope.md R265). -/
theorem sealed_of_exec_ok {hex ivsrc : Bool} {s t : State} (hlegal : s.params.Legal)
    (ht : exec (sealForm hex ivsrc) s = .next t) (hok : t.err = none) :
    ∃ iv, iv.length = 16 ∧ UnchangedButDraw s t ∧ EndsOk s t (sealedWire hex s iv) := by
  have hchecks := checksOf_sealForm hex ivsrc s
  have hpass : PassesStages (sealForm hex ivsrc) s := by
    rw [passesStages_iff hchecks]
    cases hfail : (sealChecks hex ivsrc s).firstFailure s with
    | none => rfl
    | some e =>
      cases ht.symm.trans (exec_of_firstFailure hchecks hfail)
      cases hok
  cases ivsrc with
  | true =>
    obtain ⟨u, hu, hsame, hends⟩ := exec_seal_injected hlegal hpass
    cases ht.symm.trans hu
    exact ⟨_, ivBytes_length s, hsame.butDraw, hends⟩
  | false =>
    cases ht.symm.trans (exec_sealForm_drawn hex s)
    rcases runDrawingCommand_cases (sealChecks hex false s) (sealBody hex s) s with
      ⟨e, _, he⟩ | ⟨_, _, he⟩ | ⟨_, _, _, he⟩ | ⟨b, _, hlatch, hdraw, _⟩
    case inr.inr.inr =>
      obtain ⟨u, hu, _, _, hsame, hends⟩ := exec_seal_of_draw hlegal hpass hlatch hdraw
      cases ht.symm.trans hu
      exact ⟨_, Vector.length_toList .., hsame, hends⟩
    all_goals
      rw [sealDrawn, he] at hok
      cases hok

end Sys2Proof.Machine
end

section
/-! `OPEN` (44_envelope.md R266, R267): what it finds in an envelope in the order in which it looks, and that it undoes
`SEAL`. -/

namespace Sys2Proof.Machine

/-! ## The envelope -/

/-- The last 20 bytes are the HMAC of all that precedes them (44_envelope.md R260). -/
def Authentic (H env : Bytes) : Prop := env.drop (env.length - 20) = hmacSha1 H (env.take (env.length - 20))

/-- The decrypted ciphertext of an envelope, still padded (44_envelope.md R266 steps 5 and 6). -/
def paddedPlaintext (K env : Bytes) : Bytes :=
  cbcDec K ((env.drop 5).take 16) ((env.drop 21).take (env.length - 41))

/-- The comparison of `OPEN` decides whether an envelope is authentic (43_mac.md R237). -/
theorem ctEq_signature_iff {H env : Bytes} (hlen : 41 ≤ env.length) :
    ctEq (env.drop (env.length - 20)) (hmacSha1 H (env.take (env.length - 20))) = true ↔ Authentic H env :=
  ctEq_iff (by rw [List.length_drop]; omega) (hmacSha1_length _ _)

/-- A forged envelope is refused, whatever else is wrong with it (44_envelope.md R266 step 4). -/
theorem openEnvelope_of_forged {z : UnpadZero} {K H env : Bytes} (hlen : 41 ≤ env.length) (hforged : ¬ Authentic H env) :
    openEnvelope z K H env = .error .auth := by
  rw [← ctEq_signature_iff hlen, Bool.not_eq_true] at hforged
  simp [openEnvelope, hforged]

/-- An authentic envelope is decrypted and unpadded if its ciphertext is whole blocks (44_envelope.md R266 steps 5 to
7). -/
theorem openEnvelope_of_authentic {z : UnpadZero} {K H env : Bytes} (hlen : 41 ≤ env.length) (hauth : Authentic H env) :
    openEnvelope z K H env =
      if (env.length - 41) % 16 = 0 then unpadBytes z (paddedPlaintext K env) else .error .format := by
  have hiv : ((env.take (env.length - 20)).drop 5).take 16 = (env.drop 5).take 16 := by
    rw [List.drop_take, List.take_take, min_eq_left (by omega)]
  have hct : (env.take (env.length - 20)).drop 21 = (env.drop 21).take (env.length - 41) := by
    rw [List.drop_take, Nat.sub_sub]
  have hblocks : ((env.drop 21).take (env.length - 41)).length = env.length - 41 := by
    rw [List.length_take, List.length_drop]
    omega
  rw [← ctEq_signature_iff hlen] at hauth
  simp only [openEnvelope, tagLen_eq, hdrLen_eq, ivLen_eq, Nat.reduceAdd, hauth, Bool.not_true, Bool.false_eq_true,
    if_false, hiv, hct, hblocks, ne_eq, ite_not, paddedPlaintext]

/-! ## The command -/

/-- `OPEN` and `OPEN.HEX` are one meaning with the flag `HEX` (44_envelope.md R266). -/
theorem exec_openForm (hex : Bool) (s : State) :
    exec (openForm hex) s = .next (runCommand (openChecks hex s) (openBody hex s) s) := by
  cases hex <;> rfl

/-- The checks of the two forms of `OPEN` (40_control.md R152). -/
theorem checksOf_openForm (hex : Bool) (s : State) : checksOf (openForm hex) s = some (openChecks hex s) := by
  cases hex <;> rfl

/-- Stage S5 of `OPEN` leaves only sources whose envelope has a header, an IV and a signature (44_envelope.md R266 step
2). -/
theorem envelope_length_of_passesStages {hex : Bool} {s : State} {env : Bytes} (hpass : PassesStages (openForm hex) s)
    (hread : readWire hex (sourceBytes s) = .ok env) : 41 ≤ env.length := by
  have ⟨_, _, _, hlength, _⟩ := hpass
  cases hex with
  | false =>
    cases hread
    rw [sourceBytes_length]
    exact Nat.not_lt.1 hlength
  | true =>
    rw [hexDecode_length hread, sourceBytes_length]
    exact Nat.not_lt.1 (not_or.1 hlength).2

/-- The body of `OPEN` opens the envelope that its source stands for. -/
theorem openBody_of_readWire {hex : Bool} {s : State} {env : Bytes} (hread : readWire hex (sourceBytes s) = .ok env) :
    openBody hex s = openEnvelope s.params.unpadZero (aesKeyBytes s) (hmacKeyBytes s) env := by
  simp only [openBody, hread]

/-- `OPEN` of an envelope that opens writes its plaintext (44_envelope.md R266). -/
theorem exec_open_ok {hex : Bool} {s : State} {env p : Bytes} (hlegal : s.params.Legal)
    (hpass : PassesStages (openForm hex) s) (hread : readWire hex (sourceBytes s) = .ok env)
    (hopen : openEnvelope s.params.unpadZero (aesKeyBytes s) (hmacKeyBytes s) env = .ok p) :
    ∃ t, exec (openForm hex) s = .next t ∧ EndsOk s t p ∧ Unchanged s t := by
  have hbody : openBody hex s = .ok p := (openBody_of_readWire hread).trans hopen
  have hfits : OutFits s (.ok p) := hbody ▸ openBody_fits hpass
  rw [exec_openForm, hbody, runCommand_of_passesStages (checksOf_openForm hex s) hpass]
  exact ⟨_, rfl, complete_ok_of_fits hlegal hfits⟩

/-- `OPEN` past its stages whose body raises ends with that error (44_envelope.md R266). -/
theorem exec_open_error {hex : Bool} {s : State} {e : Failure} (hpass : PassesStages (openForm hex) s)
    (hbody : openBody hex s = .error e) :
    ∃ t, exec (openForm hex) s = .next t ∧ EndsWith s t e ∧ Unchanged s t := by
  rw [exec_openForm, hbody]
  exact ⟨_, rfl, runCommand_error (checksOf_openForm hex s) hpass⟩

/-- `OPEN` of an authentic envelope whose ciphertext is whole blocks and whose decryption unpads. -/
theorem exec_open_authentic {hex : Bool} {s : State} {env p : Bytes} (hlegal : s.params.Legal)
    (hpass : PassesStages (openForm hex) s) (hread : readWire hex (sourceBytes s) = .ok env)
    (hauth : Authentic (hmacKeyBytes s) env) (hblocks : (env.length - 41) % 16 = 0)
    (hunpad : unpadBytes s.params.unpadZero (paddedPlaintext (aesKeyBytes s) env) = .ok p) :
    ∃ t, exec (openForm hex) s = .next t ∧ EndsOk s t p ∧ Unchanged s t := by
  refine exec_open_ok hlegal hpass hread ?_
  rw [openEnvelope_of_authentic (envelope_length_of_passesStages hpass hread) hauth, if_pos hblocks, hunpad]

/-- Settles O41: the binary source is its own envelope, the hex text the envelope that it decodes to. -/
theorem openWritesThePlaintext : Obligations.OpenWritesThePlaintext :=
  ⟨fun _ _ _ hlegal hpass hsource => exec_open_authentic (hex := false) hlegal hpass (congrArg Except.ok hsource),
    fun _ _ _ hlegal hpass hsource => exec_open_authentic (hex := true) hlegal hpass hsource⟩

/-- Settles O42: the three errors in the order in which the body meets them. -/
theorem openChecksInTheSourcesOrder : Obligations.OpenChecksInTheSourcesOrder := by
  refine ⟨fun s hpass hbad => ?_, fun s hex env hpass hread hforged => ?_, fun s hex env hpass hread hauth hpad => ?_⟩
  · refine exec_open_error (hex := true) hpass ?_
    simp only [openBody, readWire, if_true, hbad]
  · refine exec_open_error hpass ?_
    rw [openBody_of_readWire hread, openEnvelope_of_forged (envelope_length_of_passesStages hpass hread) hforged]
  · refine exec_open_error hpass ?_
    rw [openBody_of_readWire hread, openEnvelope_of_authentic (envelope_length_of_passesStages hpass hread) hauth]
    split
    · next hblocks => exact hpad.resolve_left (not_not.2 hblocks)
    · rfl

/-! ## The round trip -/

/-- Reading the wire form gives the envelope back (44_envelope.md R261, R262). -/
theorem readWire_wireForm (hex : Bool) (env : Bytes) : readWire hex (wireForm hex env) = .ok env := by
  cases hex with
  | false => rfl
  | true => exact hexDecode_hexEncode env

/-- An envelope opens to the plaintext it was sealed from, under the same keys (44_envelope.md R267 item 1): its signature is
right by construction, and decryption and unpadding undo encryption and padding. -/
theorem openEnvelope_sealEnvelope (z : UnpadZero) (K H : Bytes) {iv : Bytes} (hiv : iv.length = 16) (p : Bytes) :
    openEnvelope z K H (sealEnvelope K H iv p) = .ok p := by
  have hlen : (sealEnvelope K H iv p).length = 41 + 16 * (p.length / 16 + 1) := sealEnvelope_length hiv
  have hsigned : (sealEnvelope K H iv p).length - 20 = 21 + 16 * (p.length / 16 + 1) := by omega
  have hciphertext : (sealEnvelope K H iv p).length - 41 = 16 * (p.length / 16 + 1) := by omega
  obtain ⟨_, _, _, hivfield, hct, hsignature⟩ := sealedEnvelopeLayout K H iv p hiv
  have hauth : Authentic H (sealEnvelope K H iv p) := by rwa [Authentic, hsigned]
  have hpadded : (padBytes p).length % 16 = 0 := by rw [padBytes_length, Nat.mul_mod_right]
  rw [openEnvelope_of_authentic (by omega) hauth, if_pos (by omega), paddedPlaintext, hivfield, hciphertext, hct,
    cbcDecInvertsCbcEnc K iv _ hiv hpadded, unpadInvertsPad]

/-- The key strings are fixed by the key registers (10_state.md R44, R47). -/
theorem keyBytes_congr {s t : State} (h : SameKeyRegisters s t) :
    aesKeyBytes t = aesKeyBytes s ∧ hmacKeyBytes t = hmacKeyBytes s := by
  obtain ⟨haes, hsize, _, hlen, hhmac⟩ := h
  simp only [aesKeyBytes, hmacKeyBytes, haes, hsize, hlen, hhmac, and_self]

/-- The output of a command that ended with `E_OK`, read back as a source. -/
theorem memRead_of_endsOk {s t : State} {out : Bytes} (h : EndsOk s t out) :
    memRead t s.dstAddr.toNat t.outLen.toNat = out := by
  obtain ⟨_, _, _, hlen, hholds, _⟩ := h
  rw [hlen]
  exact memRead_of_holdsAt hholds

/-- Settles O43: the source of `OPEN` is the wire form of an envelope sealed under the keys that `OPEN` finds. -/
theorem openUndoesSeal : Obligations.OpenUndoesSeal := by
  rintro s t _ hex ivsrc d hlegal ht hok rfl hpass
  obtain ⟨iv, hiv, ⟨hkeys, hoperands, _⟩, hends⟩ := sealed_of_exec_ok hlegal ht hok
  obtain ⟨haes, hhmac⟩ := keyBytes_congr hkeys
  obtain ⟨hparams, _, _, _, _, _, _, _, hdst, _⟩ := hoperands
  have hsource : memRead t t.dstAddr.toNat t.outLen.toNat = sealedWire hex s iv := by
    rw [hdst]
    exact memRead_of_endsOk hends
  refine exec_open_ok (env := sealEnvelope (aesKeyBytes s) (hmacKeyBytes s) iv (sourceBytes s)) ?_ hpass ?_ ?_
  · rwa [← hparams] at hlegal
  · exact (congrArg (readWire hex) hsource).trans (readWire_wireForm hex _)
  · change openEnvelope t.params.unpadZero (aesKeyBytes t) (hmacKeyBytes t) _ = _
    rw [haes, hhmac]
    exact openEnvelope_sealEnvelope _ _ _ hiv _

end Sys2Proof.Machine
end

section
/-! The exceptions of 60_exceptions.md: which command raises `E_CONFIG` (R303), and how a failed draw ends `SEAL` (R306). -/

namespace Sys2Proof.Machine

/-! ## `E_CONFIG` -/

/-- A result that is none of `KEY_COMMIT`'s errors does not complete with `E_CONFIG`. -/
theorem complete_err_ne_config {s u : State} {r : Except Failure Bytes} (h : OutFits u r) :
    (complete r s).err ≠ some .config := by
  cases r with
  | ok out => simp
  | error e => simpa [OutFits] using h

/-- Of the ways in which a command can end, only the refusal of an illegal key configuration reports `E_CONFIG`. -/
theorem execEnds_config {i : Instr} {s t : State} (ht : ExecEnds i s t) (herr : t.err = some .config) :
    i = .keyCommit ∧ s.keyValid = false ∧ keyConfigLegal s = false := by
  cases ht with
  | plain r hr => exact absurd herr (complete_err_ne_config hr)
  | refusedKey hnone hi hillegal => exact ⟨hi, hnone, hillegal⟩
  | committedKey => cases herr
  | clearedKey => cases herr
  | failedDraw => cases herr
  | draw r hr => exact absurd herr (complete_err_ne_config hr)

/-- Settles O13: the ways in which a command can end give one direction, the meaning of `KEY_COMMIT` the other. -/
theorem onlyKeyCommitRaisesConfigError : Obligations.OnlyKeyCommitRaisesConfigError := by
  intro i s t ht
  rw [← keyConfigLegal_eq_false_iff]
  constructor
  · intro herr
    obtain ⟨u, hu, hends⟩ := exec_ends i s
    cases hu.symm.trans ht
    exact execEnds_config hends herr
  · rintro ⟨rfl, hnone, hillegal⟩
    cases ht.symm.trans (exec_keyCommit_of_illegal hnone hillegal)
    rfl

/-! ## `E_ENTROPY` -/

/-- The completion with any result, of any length, writes only `STATUS`, `OUT_LEN` and the data memory
(40_control.md R151). -/
theorem complete_unchanged (r : Except Failure Bytes) (s : State) : Unchanged s (complete r s) := by
  cases r with
  | ok out => simp [Unchanged, SameKeyRegisters, SameOperands, SameOutside, NoDraw]
  | error e => exact (complete_error_spec s e).2

/-- `SEAL` past its stages with the latch set takes no draw. -/
theorem exec_seal_latched {hex : Bool} {s : State} (hpass : PassesStages (sealForm hex false) s)
    (hlatch : s.rngFail = true) : exec (sealForm hex false) s = .next (complete (.error .entropy) s) := by
  have hstages := (passesStages_iff (checksOf_sealForm hex false s)).1 hpass
  simp [exec_sealForm_drawn, sealDrawn, runDrawingCommand, hstages, hlatch]

/-- `SEAL` past its stages with the latch clear takes one draw and finishes with its answer. -/
theorem exec_seal_drawing {hex : Bool} {s : State} (hpass : PassesStages (sealForm hex false) s)
    (hlatch : s.rngFail = false) :
    exec (sealForm hex false) s = .next (finishDraw (entropyDraw s).1 (sealBody hex s) (entropyDraw s).2) := by
  have hstages := (passesStages_iff (checksOf_sealForm hex false s)).1 hpass
  simp [exec_sealForm_drawn, sealDrawn, runDrawingCommand, hstages, hlatch]

/-- The completion after a draw, with any result, leaves all that a draw leaves. -/
theorem complete_after_draw_unchanged (r : Except Failure Bytes) (s : State) :
    UnchangedButDraw s (complete r (entropyDraw s).2) := by
  rcases entropyDraw_cases s with ⟨_, rs, _, he⟩ | ⟨_, he⟩ <;> rw [he]
  · exact (complete_unchanged r { s with entropy := rs }).butDraw
  · exact (complete_unchanged r { s with draws := s.draws + 1 }).butDraw

/-- A failed draw ends with `E_ENTROPY`, and of what a draw leaves it changes `RNGFAIL` alone. -/
theorem finishDraw_none_spec (body : Bytes → Except Failure Bytes) (s : State) :
    EndsWith s (finishDraw none body (entropyDraw s).2) .entropy ∧
      UnchangedButDraw { s with rngFail := true } (finishDraw none body (entropyDraw s).2) := by
  rcases entropyDraw_cases s with ⟨_, rs, _, he⟩ | ⟨_, he⟩ <;> rw [he]
  · obtain ⟨hends, hsame⟩ := complete_error_spec { s with entropy := rs, rngFail := true } .entropy
    exact ⟨hends, hsame.butDraw⟩
  · obtain ⟨hends, hsame⟩ := complete_error_spec { s with draws := s.draws + 1, rngFail := true } .entropy
    exact ⟨hends, hsame.butDraw⟩

/-- `SEAL` past its stages with the latch clear and a draw that fails (60_exceptions.md R306). -/
theorem exec_seal_of_failedDraw {hex : Bool} {s : State} (hpass : PassesStages (sealForm hex false) s)
    (hlatch : s.rngFail = false) (hdraw : (entropyDraw s).1 = none) :
    ∃ t, exec (sealForm hex false) s = .next t ∧ t.entropy = (entropyDraw s).2.entropy ∧
      t.draws = (entropyDraw s).2.draws ∧ EndsWith s t .entropy ∧ UnchangedButDraw { s with rngFail := true } t := by
  rw [exec_seal_drawing hpass hlatch, hdraw]
  exact ⟨_, rfl, rfl, rfl, finishDraw_none_spec (sealBody hex s) s⟩

/-- `SEAL` past its stages with the latch clear and a draw that answers `b`. The parameters may be any: only that the
envelope fits the memory needs legal ones. -/
theorem exec_seal_of_answer {hex : Bool} {s : State} {b : Vector Byte 16} (hpass : PassesStages (sealForm hex false) s)
    (hlatch : s.rngFail = false) (hdraw : (entropyDraw s).1 = some b) :
    ∃ t, exec (sealForm hex false) s = .next t ∧ t.entropy = (entropyDraw s).2.entropy ∧
      t.draws = (entropyDraw s).2.draws ∧ t.err = none ∧ UnchangedButDraw s t ∧
      (s.params.Legal → EndsOk s t (sealedWire hex s b.toList)) := by
  have ht : exec (sealForm hex false) s = .next (complete (sealBody hex s b.toList) (entropyDraw s).2) := by
    rw [exec_seal_drawing hpass hlatch, hdraw, finishDraw]
  refine ⟨_, ht, rfl, rfl, rfl, complete_after_draw_unchanged _ s, fun hlegal => ?_⟩
  obtain ⟨u, hu, _, _, _, hends⟩ := exec_seal_of_draw hlegal hpass hlatch hdraw
  cases ht.symm.trans hu
  exact hends

/-- `SEAL` writes the binary envelope and `SEAL.HEX` its text (44_envelope.md R265 step 7). -/
theorem endsOk_wireForm {hex : Bool} {s t : State} {env : Bytes} (h : EndsOk s t (wireForm hex env)) :
    (sealForm hex false = .sealBin → EndsOk s t env) ∧ (sealForm hex false = .sealHex → EndsOk s t (hexEncode env)) := by
  cases hex with
  | false => exact ⟨fun _ => h, nofun⟩
  | true => exact ⟨nofun, fun _ => h⟩

/-- Settles O39: the latch, then a listed failure, then the free value, whose two outcomes are the two lemmas on a draw.
The listed answers are taken first: the model's choice, log entry 4. -/
theorem entropyFailureIsFatal : Obligations.EntropyFailureIsFatal := by
  intro i s hi hpass
  obtain ⟨hex, rfl⟩ : ∃ hex, i = sealForm hex false := by
    rcases hi with rfl | rfl
    · exact ⟨false, rfl⟩
    · exact ⟨true, rfl⟩
  refine ⟨fun hlatch => ⟨_, exec_seal_latched hpass hlatch, complete_error_spec s .entropy⟩, ?_, ?_⟩
  · intro rest hlatch hlist
    have hdraw : entropyDraw s = (none, { s with entropy := rest }) := by rw [entropyDraw, hlist]
    obtain ⟨t, ht, hentropy, _, hends, hkeys, hoperands, houtside, hvalid, hflag⟩ :=
      exec_seal_of_failedDraw hpass hlatch (congrArg Prod.fst hdraw)
    rw [hdraw] at hentropy
    exact ⟨t, ht, hends, hflag, hentropy, hvalid, hkeys, hoperands, houtside⟩
  · intro hlatch hlist
    have hdraw : entropyDraw s = (Config.entropyAnswer s.draws, { s with draws := s.draws + 1 }) := by
      rw [entropyDraw, hlist]
    cases hanswer : Config.entropyAnswer s.draws with
    | none =>
      obtain ⟨t, ht, hentropy, hdraws, hends, hkeys, hoperands, houtside, hvalid, hflag⟩ :=
        exec_seal_of_failedDraw hpass hlatch ((congrArg Prod.fst hdraw).trans hanswer)
      rw [hdraw] at hentropy hdraws
      have ⟨herr, _⟩ := hends
      exact ⟨t, ht, hdraws, hflag, .inr hends, iff_of_true herr rfl, nofun, hentropy.trans hlist, hvalid,
        hkeys, hoperands, houtside⟩
    | some b =>
      obtain ⟨t, ht, hentropy, hdraws, herr, ⟨hkeys, hoperands, houtside, hvalid, hflag⟩, hok⟩ :=
        exec_seal_of_answer hpass hlatch ((congrArg Prod.fst hdraw).trans hanswer)
      rw [hdraw] at hentropy hdraws
      refine ⟨t, ht, hdraws, hflag.trans hlatch, .inl herr, by simp [herr], ?_, hentropy.trans hlist, hvalid, hkeys,
        hoperands, houtside⟩
      rintro _ ⟨⟩ hlegal
      exact ⟨_, rfl, endsOk_wireForm (hok hlegal)⟩

end Sys2Proof.Machine
end

section
/-! The reset and what survives it (70_reset_and_hazards.md R340 to R342): the state that it leaves, and the two latches
that nothing else clears. -/

namespace Sys2Proof.Machine

/-! ## The latches `RNGFAIL` and `IVINJ_LOCK` -/

/-- A latch that is set in `s` is still set in `t`. For a move that writes neither field this is `⟨id, id⟩`. -/
structure LatchesKept (s t : State) : Prop where
  rngFail : s.rngFail = true → t.rngFail = true
  ivinjLock : s.ivinjLock = true → t.ivinjLock = true

/-- A draw by itself touches neither latch. -/
theorem entropyDraw_keeps_latches (s : State) : LatchesKept s (entropyDraw s).2 := by
  rcases entropyDraw_cases s with ⟨_, _, _, he⟩ | ⟨_, he⟩ <;> rw [he] <;> exact ⟨id, id⟩

/-- A failed draw sets `RNGFAIL` (60_exceptions.md R306); no command clears a latch, `KEY_CLEAR` included. -/
theorem execEnds_keeps_latches {i : Instr} {s t : State} (ht : ExecEnds i s t) : LatchesKept s t := by
  have hdraw := entropyDraw_keeps_latches s
  cases ht with
  | plain | refusedKey | committedKey | clearedKey => exact ⟨id, id⟩
  | failedDraw => exact ⟨fun _ => rfl, hdraw.ivinjLock⟩
  | draw => exact ⟨hdraw.rngFail, hdraw.ivinjLock⟩

/-- The engine's turn: idle, on an illegal word, or on a command. -/
theorem engineTurn_keeps_latches {s t : State} (ht : engineTurn s = .next t) : LatchesKept s t := by
  cases hbusy : s.busy with
  | false =>
    cases (engineTurn_of_idle hbusy).symm.trans ht
    exact ⟨id, id⟩
  | true =>
    by_cases hlegal : ∃ i, decode s.curcmd = .ok i
    · obtain ⟨i, hi⟩ := hlegal
      obtain ⟨u, hu, hends⟩ := exec_ends i s
      cases ((engineTurn_of_decode hbusy hi).trans hu).symm.trans ht
      exact execEnds_keeps_latches hends
    · cases (engineTurn_of_illegal hbusy hlegal).symm.trans ht
      exact ⟨id, id⟩

/-- A write to `CTRL` can only set the lock (10_state.md R36). -/
theorem writeCtrl_keeps_latches (v : Word) (s : State) : LatchesKept s (writeCtrl v s) :=
  ⟨id, fun hlock => by rw [writeCtrl_ivinjLock, hlock, Bool.true_or]⟩

/-- A write under the key lock touches neither latch, if the write itself does not. -/
theorem unlessLocked_keeps_latches {s t : State} (ht : LatchesKept s t) : LatchesKept s (unlessLocked s t) := by
  unfold unlessLocked
  split
  · exact ⟨id, id⟩
  · exact ht

/-- A register write, busy or idle: of all registers only `CTRL` reaches a latch. `STATUS.RNGFAIL` ignores writes
(10_state.md R37). -/
theorem regWrite_keeps_latches (r : Reg) (v : Word) (s : State) : LatchesKept s (regWrite r v s) := by
  unfold regWrite
  split
  · exact ⟨id, id⟩
  · cases r with
    | ctrl => exact writeCtrl_keeps_latches v s
    | aesKey | keycfg | hkeyLen | hkey => exact unlessLocked_keeps_latches ⟨id, id⟩
    | _ => exact ⟨id, id⟩

/-- Of the host's accesses only a register write could reach a latch. -/
theorem hostAccess_keeps_latches (a : Access) (s : State) : LatchesKept s (hostAccess a s) := by
  rcases hostAccess_cases a s with
    ⟨_, he⟩ | ⟨_, _, _, _, he⟩ | ⟨r, v, he⟩ | ⟨_, _, _, _, _, he⟩ | he | he <;> rw [he]
  case inr.inr.inl => exact regWrite_keeps_latches r v s
  all_goals exact ⟨id, id⟩

/-- One step without a reset. Taking the turn off the list touches neither latch. -/
theorem step_keeps_latches {s t : State} (ht : step s = .next t) (hr : resetHasTurn s = false) : LatchesKept s t := by
  rcases step_cases s with ⟨_, he⟩ | ⟨ts, _, he⟩ | ⟨a, ts, _, he⟩ | ⟨ts, hts, he⟩ <;> rw [he] at ht
  · exact engineTurn_keeps_latches ht
  · obtain ⟨hfail, hlock⟩ := engineTurn_keeps_latches ht
    exact ⟨hfail, hlock⟩
  · cases ht
    obtain ⟨hfail, hlock⟩ := hostAccess_keeps_latches a { s with turns := ts }
    exact ⟨hfail, hlock⟩
  · simp [resetHasTurn, hts] at hr

/-- Settles O40: the step is the engine's turn or a host access, and neither clears a latch. -/
theorem onlyResetClearsTheLatches : Obligations.OnlyResetClearsTheLatches := by
  intro s t ht hr
  obtain ⟨hfail, hlock⟩ := step_keeps_latches ht hr
  exact ⟨hfail, hlock⟩

/-! ## The state after reset -/

/-- With legal parameters the reset state meets the invariant: nothing is listed, pending, locked or committed. -/
theorem resetWith_inv {p : Params} (hp : p.Legal) (n : Nat) : (State.resetWith p n).Inv :=
  ⟨hp, wf_empty, by simp [State.resetWith], nofun, nofun, nofun, Nat.zero_le _⟩

/-- The defaults of 00_scope.md R7 are legal. -/
theorem default_legal : Params.default.Legal := by decide

/-- Settles O8. -/
theorem resetMeetsTheInvariant : Obligations.ResetMeetsTheInvariant :=
  ⟨resetWith_inv default_legal 0, fun _ n hp => resetWith_inv hp n⟩

/-- Every field of `CTRL` and of `STATUS` reads 0 after a reset. -/
theorem flagWords_hardReset (s : State) : ctrlWord (hardReset s) = 0 ∧ statusWord (hardReset s) = 0 := by
  simp [ctrlWord, injectionEnabled, statusWord, errCode]

/-- The key configuration reads 0 after a reset. -/
theorem keyConfigWords_hardReset (s : State) : keycfgWord (hardReset s) = 0 ∧ hkeyLenWord (hardReset s) = 0 := by
  simp [keycfgWord, hkeyLenWord]

/-- The register files hold 0 after a reset. -/
theorem registerFiles_hardReset (s : State) : (∀ k : Fin 8, (hardReset s).aesKey[k] = 0) ∧
    (∀ k : Fin 16, (hardReset s).hkey[k] = 0) ∧ (∀ k : Fin 4, (hardReset s).iv[k] = 0) := by
  simp

/-- When `rst` has the next turn, the step is the reset, with that turn taken off the list (R340). -/
theorem step_of_turns_rst {s : State} {ts : List Turn} (h : s.turns = .rst :: ts) :
    step s = .next (hardReset { s with turns := ts }) := by
  rw [step, h]

/-- Settles O58: the step is `hardReset`, which is read word by word. -/
theorem resetClearsEveryRegister : Obligations.ResetClearsEveryRegister := by
  intro s ts hts
  obtain ⟨hctrl, hstatus⟩ := flagWords_hardReset { s with turns := ts }
  obtain ⟨hkeycfg, hhkeyLen⟩ := keyConfigWords_hardReset { s with turns := ts }
  obtain ⟨haesKey, hhkey, hiv⟩ := registerFiles_hardReset { s with turns := ts }
  exact ⟨_, step_of_turns_rst hts, rfl, rfl, rfl, rfl, hctrl, hstatus, rfl, rfl, rfl, rfl, rfl, rfl, hkeycfg, hhkeyLen,
    haesKey, hhkey, hiv, rfl, rfl, rfl⟩

end Sys2Proof.Machine
end
